-- ==== Sys2Proof/Word.lean ====
section
/-! DEFINITION. The widths of the block's stored values (00_scope.md R7, R8, R9) and the two plainest helpers over them. -/

namespace Sys2Proof

/-- A memory cell, a general register or a timer: 8 bits (R7 V_WIDTH, TIMER_WIDTH; R21). -/
abbrev Byte := BitVec 8

/-- An instruction word, `I` or `pc`: 16 bits stored (R7 INSN_WIDTH, I_WIDTH, PC_WIDTH). -/
abbrev Word := BitVec 16

/-- A 12-bit address field or stack entry (R7 STACK_ENTRY_WIDTH, R71 `nnn`). -/
abbrev Addr := BitVec 12

/-- A register index, the 4-bit field X or Y (R13, R24). -/
abbrev Reg := BitVec 4

/-- A key index 0x0..0xF (R29). -/
abbrev Key := BitVec 4

/-- `bool01(p)` of R9 as a byte: 1 if `p` holds and 0 otherwise. -/
def bool01 (p : Bool) : Byte := if p then 1#8 else 0#8

/-- `a ++ b` of R9 for two bytes: `hi` in the high bits (R53, big-endian fetch). -/
def wordOfBytes (hi lo : Byte) : Word := hi ++ lo

end Sys2Proof
end

