-- ==== Sys2Proof/Syntax.lean ====
section
/-! DEFINITION. The 34 instructions of 30_encoding.md R74, one constructor a row of spec/opcode_table.json. Operand fields
have their encoded width (R71, R73), so every term is an instruction the encoding can express (R24). -/

namespace Sys2Proof

/-- A decoded instruction: "an explicit decoded-instruction sum type (one variant per mnemonic)" (R77). Constructor
names follow the assembly spellings of R79; the pattern of each is in its docstring. -/
inductive Instr where
  /-- 00E0 `CLS`, R181 -/
  | cls
  /-- 00EE `RET`, R110 -/
  | ret
  /-- 1NNN `JP addr`, R111 -/
  | jp (nnn : Addr)
  /-- 2NNN `CALL addr`, R112 -/
  | call (nnn : Addr)
  /-- 3XNN `SE Vx, byte`, R113 -/
  | seImm (x : Reg) (nn : Byte)
  /-- 4XNN `SNE Vx, byte`, R114 -/
  | sneImm (x : Reg) (nn : Byte)
  /-- 5XY0 `SE Vx, Vy`, R115 -/
  | seReg (x y : Reg)
  /-- 6XNN `LD Vx, byte`, R133 -/
  | ldImm (x : Reg) (nn : Byte)
  /-- 7XNN `ADD Vx, byte`, R134 -/
  | addImm (x : Reg) (nn : Byte)
  /-- 8XY0 `LD Vx, Vy`, R135 -/
  | ldReg (x y : Reg)
  /-- 8XY1 `OR Vx, Vy`, R136 -/
  | orReg (x y : Reg)
  /-- 8XY2 `AND Vx, Vy`, R137 -/
  | andReg (x y : Reg)
  /-- 8XY3 `XOR Vx, Vy`, R138 -/
  | xorReg (x y : Reg)
  /-- 8XY4 `ADD Vx, Vy`, R139 -/
  | addReg (x y : Reg)
  /-- 8XY5 `SUB Vx, Vy`, R140 -/
  | subReg (x y : Reg)
  /-- 8XY6 `SHR Vx, Vy`, R141: `y` is encoded and not read -/
  | shr (x y : Reg)
  /-- 8XY7 `SUBN Vx, Vy`, R142 -/
  | subnReg (x y : Reg)
  /-- 8XYE `SHL Vx, Vy`, R143: `y` is encoded and not read -/
  | shl (x y : Reg)
  /-- 9XY0 `SNE Vx, Vy`, R116 -/
  | sneReg (x y : Reg)
  /-- ANNN `LD I, addr`, R162 -/
  | ldI (nnn : Addr)
  /-- BNNN `JP V0, addr`, R117 -/
  | jpV0 (nnn : Addr)
  /-- CXNN `RND Vx, byte`, R144 -/
  | rnd (x : Reg) (nn : Byte)
  /-- DXYN `DRW Vx, Vy, nibble`, R182 -/
  | drw (x y : Reg) (n : BitVec 4)
  /-- EX9E `SKP Vx`, R200 -/
  | skp (x : Reg)
  /-- EXA1 `SKNP Vx`, R201 -/
  | sknp (x : Reg)
  /-- FX07 `LD Vx, DT`, R202 -/
  | ldVxDT (x : Reg)
  /-- FX0A `LD Vx, K`, R203 -/
  | ldVxK (x : Reg)
  /-- FX15 `LD DT, Vx`, R204 -/
  | ldDTVx (x : Reg)
  /-- FX18 `LD ST, Vx`, R205 -/
  | ldSTVx (x : Reg)
  /-- FX1E `ADD I, Vx`, R163 -/
  | addI (x : Reg)
  /-- FX29 `LD F, Vx`, R164 -/
  | ldF (x : Reg)
  /-- FX33 `LD B, Vx`, R165 -/
  | ldB (x : Reg)
  /-- FX55 `LD [I], Vx`, R166 -/
  | storeRegs (x : Reg)
  /-- FX65 `LD Vx, [I]`, R167 -/
  | loadRegs (x : Reg)
deriving DecidableEq, Repr

/-- The pattern by which 30_encoding.md R74 and spec/opcode_table.json name the instruction. -/
def Instr.mnemonic : Instr → String
  | .cls => "00E0"
  | .ret => "00EE"
  | .jp _ => "1NNN"
  | .call _ => "2NNN"
  | .seImm _ _ => "3XNN"
  | .sneImm _ _ => "4XNN"
  | .seReg _ _ => "5XY0"
  | .ldImm _ _ => "6XNN"
  | .addImm _ _ => "7XNN"
  | .ldReg _ _ => "8XY0"
  | .orReg _ _ => "8XY1"
  | .andReg _ _ => "8XY2"
  | .xorReg _ _ => "8XY3"
  | .addReg _ _ => "8XY4"
  | .subReg _ _ => "8XY5"
  | .shr _ _ => "8XY6"
  | .subnReg _ _ => "8XY7"
  | .shl _ _ => "8XYE"
  | .sneReg _ _ => "9XY0"
  | .ldI _ => "ANNN"
  | .jpV0 _ => "BNNN"
  | .rnd _ _ => "CXNN"
  | .drw _ _ _ => "DXYN"
  | .skp _ => "EX9E"
  | .sknp _ => "EXA1"
  | .ldVxDT _ => "FX07"
  | .ldVxK _ => "FX0A"
  | .ldDTVx _ => "FX15"
  | .ldSTVx _ => "FX18"
  | .addI _ => "FX1E"
  | .ldF _ => "FX29"
  | .ldB _ => "FX33"
  | .storeRegs _ => "FX55"
  | .loadRegs _ => "FX65"

end Sys2Proof
end

