-- ==== Sys2Proof/WellFormed.lean ====
section
/-! DEFINITION. The opcode map of 30_encoding.md R74 as data, and what it is for an instruction word to be well-formed:
to match one of its rows (R75). An `Instr` has operands of exactly the encoded widths, so a term of it is well-formed
by its type (R24: "by construction"). -/

namespace Sys2Proof

/-- One row of R74: `w` decodes as the row when `w & mask = pattern` (the table's column "match"). -/
structure OpRow where
  mnemonic : String
  pattern : Word
  mask : Word
deriving DecidableEq, Repr

/-- Rows 00E0 to 7XNN of R74. -/
def opcodeRowsLow : List OpRow :=
  [ ⟨"00E0", 0x00E0#16, 0xFFFF#16⟩
  , ⟨"00EE", 0x00EE#16, 0xFFFF#16⟩
  , ⟨"1NNN", 0x1000#16, 0xF000#16⟩
  , ⟨"2NNN", 0x2000#16, 0xF000#16⟩
  , ⟨"3XNN", 0x3000#16, 0xF000#16⟩
  , ⟨"4XNN", 0x4000#16, 0xF000#16⟩
  , ⟨"5XY0", 0x5000#16, 0xF00F#16⟩
  , ⟨"6XNN", 0x6000#16, 0xF000#16⟩
  , ⟨"7XNN", 0x7000#16, 0xF000#16⟩ ]

/-- Rows 8XY0 to 9XY0 of R74. -/
def opcodeRowsAlu : List OpRow :=
  [ ⟨"8XY0", 0x8000#16, 0xF00F#16⟩
  , ⟨"8XY1", 0x8001#16, 0xF00F#16⟩
  , ⟨"8XY2", 0x8002#16, 0xF00F#16⟩
  , ⟨"8XY3", 0x8003#16, 0xF00F#16⟩
  , ⟨"8XY4", 0x8004#16, 0xF00F#16⟩
  , ⟨"8XY5", 0x8005#16, 0xF00F#16⟩
  , ⟨"8XY6", 0x8006#16, 0xF00F#16⟩
  , ⟨"8XY7", 0x8007#16, 0xF00F#16⟩
  , ⟨"8XYE", 0x800E#16, 0xF00F#16⟩
  , ⟨"9XY0", 0x9000#16, 0xF00F#16⟩ ]

/-- Rows ANNN to FX65 of R74. -/
def opcodeRowsHigh : List OpRow :=
  [ ⟨"ANNN", 0xA000#16, 0xF000#16⟩
  , ⟨"BNNN", 0xB000#16, 0xF000#16⟩
  , ⟨"CXNN", 0xC000#16, 0xF000#16⟩
  , ⟨"DXYN", 0xD000#16, 0xF000#16⟩
  , ⟨"EX9E", 0xE09E#16, 0xF0FF#16⟩
  , ⟨"EXA1", 0xE0A1#16, 0xF0FF#16⟩
  , ⟨"FX07", 0xF007#16, 0xF0FF#16⟩
  , ⟨"FX0A", 0xF00A#16, 0xF0FF#16⟩
  , ⟨"FX15", 0xF015#16, 0xF0FF#16⟩
  , ⟨"FX18", 0xF018#16, 0xF0FF#16⟩
  , ⟨"FX1E", 0xF01E#16, 0xF0FF#16⟩
  , ⟨"FX29", 0xF029#16, 0xF0FF#16⟩
  , ⟨"FX33", 0xF033#16, 0xF0FF#16⟩
  , ⟨"FX55", 0xF055#16, 0xF0FF#16⟩
  , ⟨"FX65", 0xF065#16, 0xF0FF#16⟩ ]

/-- The 34 rows of R74. -/
def opcodeTable : List OpRow := opcodeRowsLow ++ opcodeRowsAlu ++ opcodeRowsHigh

/-- `w & mask = match` (R74). -/
def OpRow.matchesWord (r : OpRow) (w : Word) : Bool := w &&& r.mask == r.pattern

/-- A word is well-formed when some row of R74 matches it; every other word is InvalidOpcode (R75). -/
def wellFormedWord (w : Word) : Bool := opcodeTable.any (fun r => r.matchesWord w)

/-- The row of R74 an instruction stands in, found by its mnemonic. -/
def Instr.row? (i : Instr) : Option OpRow := opcodeTable.find? (fun r => r.mnemonic == i.mnemonic)

end Sys2Proof
end

