-- ==== Sys2Proof/Decode.lean ====
section
/-! DEFINITION. The decoder of 30_encoding.md R70 to R78: total on any bytes, rejecting a word of no row by the name
InvalidOpcode; after it the encoder, from the same table. -/

namespace Sys2Proof

/-! ## Fields of the word (R71) -/

/-- `op`, w[15:12]. -/
def fieldOp (w : Word) : BitVec 4 := w.extractLsb' 12 4
/-- `x`, w[11:8]. -/
def fieldX (w : Word) : Reg := w.extractLsb' 8 4
/-- `y`, w[7:4]. -/
def fieldY (w : Word) : Reg := w.extractLsb' 4 4
/-- `n`, w[3:0]. -/
def fieldN (w : Word) : BitVec 4 := w.extractLsb' 0 4
/-- `nn`, w[7:0]. -/
def fieldNN (w : Word) : Byte := w.extractLsb' 0 8
/-- `nnn`, w[11:0]. -/
def fieldNNN (w : Word) : Addr := w.extractLsb' 0 12

/-! ## Decoding -/

/-- op = 0x8: dispatch on the low nibble (R74, C2). -/
def decodeAlu (x y : Reg) (sub : BitVec 4) : Option Instr :=
  match sub.toNat with
  | 0x0 => some (.ldReg x y)
  | 0x1 => some (.orReg x y)
  | 0x2 => some (.andReg x y)
  | 0x3 => some (.xorReg x y)
  | 0x4 => some (.addReg x y)
  | 0x5 => some (.subReg x y)
  | 0x6 => some (.shr x y)
  | 0x7 => some (.subnReg x y)
  | 0xE => some (.shl x y)
  | _ => none

/-- op = 0xE: dispatch on the low byte. -/
def decodeKeys (x : Reg) (sub : Byte) : Option Instr :=
  match sub.toNat with
  | 0x9E => some (.skp x)
  | 0xA1 => some (.sknp x)
  | _ => none

/-- op = 0xF: dispatch on the low byte. -/
def decodeMisc (x : Reg) (sub : Byte) : Option Instr :=
  match sub.toNat with
  | 0x07 => some (.ldVxDT x)
  | 0x0A => some (.ldVxK x)
  | 0x15 => some (.ldDTVx x)
  | 0x18 => some (.ldSTVx x)
  | 0x1E => some (.addI x)
  | 0x29 => some (.ldF x)
  | 0x33 => some (.ldB x)
  | 0x55 => some (.storeRegs x)
  | 0x65 => some (.loadRegs x)
  | _ => none

/-- The instruction a word stands for, `none` where it matches no row (R74, R75). Dispatch is on `op`, then on the
sub-selector the row has. -/
def decodeWord (w : Word) : Option Instr :=
  match (fieldOp w).toNat with
  | 0x0 => if w = 0x00E0#16 then some .cls else if w = 0x00EE#16 then some .ret else none
  | 0x1 => some (.jp (fieldNNN w))
  | 0x2 => some (.call (fieldNNN w))
  | 0x3 => some (.seImm (fieldX w) (fieldNN w))
  | 0x4 => some (.sneImm (fieldX w) (fieldNN w))
  | 0x5 => if fieldN w = 0#4 then some (.seReg (fieldX w) (fieldY w)) else none
  | 0x6 => some (.ldImm (fieldX w) (fieldNN w))
  | 0x7 => some (.addImm (fieldX w) (fieldNN w))
  | 0x8 => decodeAlu (fieldX w) (fieldY w) (fieldN w)
  | 0x9 => if fieldN w = 0#4 then some (.sneReg (fieldX w) (fieldY w)) else none
  | 0xA => some (.ldI (fieldNNN w))
  | 0xB => some (.jpV0 (fieldNNN w))
  | 0xC => some (.rnd (fieldX w) (fieldNN w))
  | 0xD => some (.drw (fieldX w) (fieldY w) (fieldN w))
  | 0xE => decodeKeys (fieldX w) (fieldNN w)
  | 0xF => decodeMisc (fieldX w) (fieldNN w)
  | _ => none

/-- What the decoder says of a byte sequence. -/
inductive Decoded where
  /-- The first two bytes are the instruction `i`; `rest` follows it. -/
  | instr (i : Instr) (rest : List Byte)
  /-- The first two bytes match no row: InvalidOpcode with the word (R75). -/
  | invalidOpcode (w : Word)
  /-- Fewer than two bytes: no instruction word is there (R70). -/
  | truncated
deriving DecidableEq, Repr

/-- The decoder over bytes, total: the first byte is the high byte (R53, R70). -/
def decode : List Byte → Decoded
  | hi :: lo :: rest =>
    match decodeWord (wordOfBytes hi lo) with
    | some i => .instr i rest
    | none => .invalidOpcode (wordOfBytes hi lo)
  | _ => .truncated

/-- The high byte of a word, stored at the lower address (R53). -/
def highByte (w : Word) : Byte := w.extractLsb' 8 8
/-- The low byte of a word. -/
def lowByte (w : Word) : Byte := w.extractLsb' 0 8

/-- The 16-bit word that spec/opcode_table.json numbers `w` in `nbits` bits; bits from `nbits` up are 0. -/
def tableWord (nbits w : Nat) : Word := BitVec.ofNat 16 (w % 2 ^ nbits)

/-- The instruction the decoder reads from an instruction of `nbits` bits `w`, laid out as memory holds it
(high byte first, R53). -/
def decodeTableWord (nbits w : Nat) : Option Instr :=
  match decode [highByte (tableWord nbits w), lowByte (tableWord nbits w)] with
  | .instr i _ => some i
  | _ => none

/-! ## Encoding -/

/-- Format XY (R72): op, x, y, sub. -/
def encodeXY (op : BitVec 4) (x y : Reg) (sub : BitVec 4) : Word := op ++ x ++ y ++ sub
/-- Formats XNN and X (R72): op, x, a byte. -/
def encodeXNN (op : BitVec 4) (x : Reg) (nn : Byte) : Word := op ++ x ++ nn
/-- Format NNN (R72): op, nnn. -/
def encodeNNN (op : BitVec 4) (nnn : Addr) : Word := op ++ nnn

/-- The word of an instruction (R72, R74). -/
def encode : Instr → Word
  | .cls => 0x00E0#16
  | .ret => 0x00EE#16
  | .jp nnn => encodeNNN 0x1 nnn
  | .call nnn => encodeNNN 0x2 nnn
  | .seImm x nn => encodeXNN 0x3 x nn
  | .sneImm x nn => encodeXNN 0x4 x nn
  | .seReg x y => encodeXY 0x5 x y 0x0
  | .ldImm x nn => encodeXNN 0x6 x nn
  | .addImm x nn => encodeXNN 0x7 x nn
  | .ldReg x y => encodeXY 0x8 x y 0x0
  | .orReg x y => encodeXY 0x8 x y 0x1
  | .andReg x y => encodeXY 0x8 x y 0x2
  | .xorReg x y => encodeXY 0x8 x y 0x3
  | .addReg x y => encodeXY 0x8 x y 0x4
  | .subReg x y => encodeXY 0x8 x y 0x5
  | .shr x y => encodeXY 0x8 x y 0x6
  | .subnReg x y => encodeXY 0x8 x y 0x7
  | .shl x y => encodeXY 0x8 x y 0xE
  | .sneReg x y => encodeXY 0x9 x y 0x0
  | .ldI nnn => encodeNNN 0xA nnn
  | .jpV0 nnn => encodeNNN 0xB nnn
  | .rnd x nn => encodeXNN 0xC x nn
  | .drw x y n => encodeXY 0xD x y n
  | .skp x => encodeXNN 0xE x 0x9E
  | .sknp x => encodeXNN 0xE x 0xA1
  | .ldVxDT x => encodeXNN 0xF x 0x07
  | .ldVxK x => encodeXNN 0xF x 0x0A
  | .ldDTVx x => encodeXNN 0xF x 0x15
  | .ldSTVx x => encodeXNN 0xF x 0x18
  | .addI x => encodeXNN 0xF x 0x1E
  | .ldF x => encodeXNN 0xF x 0x29
  | .ldB x => encodeXNN 0xF x 0x33
  | .storeRegs x => encodeXNN 0xF x 0x55
  | .loadRegs x => encodeXNN 0xF x 0x65

/-- The two bytes of an instruction as memory holds them: high byte first (R53, R70). -/
def encodeBytes (i : Instr) : List Byte := [highByte (encode i), lowByte (encode i)]

end Sys2Proof
end

