-- ==== Sys2Proof/Config.lean ====
section
/-! DEFINITION. What is fixed for the block beside its layout (00_scope.md R7), and the one value the spec leaves free:
the random byte. The font table, the other parameter of R7, stands in Machine/Font.lean. -/

namespace Sys2Proof

/-- The highest address, 0xFFF (R50: 4096 bytes). -/
abbrev Config.lastAddress : Nat := 0xFFF

/-- PROGRAM_ORIGIN of R7: the load origin. -/
abbrev Config.programOrigin : Nat := 0x200

/-- MAX_PROGRAM of R7: 4096 - 0x200 bytes. -/
abbrev Config.maxProgram : Nat := 3584

/-- FREE VALUE. The `k`-th random byte the core draws and no host has supplied in advance (R33, R144, D19: "under no law").
It has no body, so no proof can see which byte it is. Log entry 1. -/
opaque Config.drawRand : Nat → Byte

end Sys2Proof
end

