-- ==== Sys2Proof/Machine/Font.lean ====
section
/-! DEFINITION. The font table (43_index_memory.md R161, 20_memory.md R58) and what memory holds at creation (10_state.md
R35). FONT_BASE and FONT_DATA are the defaults the spec gives its two OPEN parameters (D16). Log entry 2. -/

namespace Sys2Proof.Machine

/-- FONT_BASE (R7, R58). -/
def fontBase : Nat := 0x050

/-- The glyphs of digits 0 to 7, five bytes each (R161). -/
def fontLow : List Byte :=
  [ 0xF0, 0x90, 0x90, 0x90, 0xF0
  , 0x20, 0x60, 0x20, 0x20, 0x70
  , 0xF0, 0x10, 0xF0, 0x80, 0xF0
  , 0xF0, 0x10, 0xF0, 0x10, 0xF0
  , 0x90, 0x90, 0xF0, 0x10, 0x10
  , 0xF0, 0x80, 0xF0, 0x10, 0xF0
  , 0xF0, 0x80, 0xF0, 0x90, 0xF0
  , 0xF0, 0x10, 0x20, 0x40, 0x40 ]

/-- The glyphs of digits 8 to F, five bytes each (R161). -/
def fontHigh : List Byte :=
  [ 0xF0, 0x90, 0xF0, 0x90, 0xF0
  , 0xF0, 0x90, 0xF0, 0x10, 0xF0
  , 0xF0, 0x90, 0xF0, 0x90, 0x90
  , 0xE0, 0x90, 0xE0, 0x90, 0xE0
  , 0xF0, 0x80, 0x80, 0x80, 0xF0
  , 0xE0, 0x90, 0x90, 0x90, 0xE0
  , 0xF0, 0x80, 0xF0, 0x80, 0x80
  , 0xF0, 0x80, 0xF0, 0x80, 0xF0 ]

/-- FONT_DATA: 80 bytes, byte j of digit d at 5·d + j (R161). -/
def fontData : List Byte := fontLow ++ fontHigh

/-- What an address reads as until something writes it: its creation value, the font at FONT_BASE..FONT_BASE+79 and 0x00
at every other address (R35). The one definition of what an unlisted address of `Memory` holds. -/
def creationByte (a : Nat) : Byte :=
  if fontBase ≤ a then (fontData[a - fontBase]?).getD 0#8 else 0#8

/-- The address of the glyph of digit `d`: FONT_BASE + 5·d (R58, R164). -/
def glyphAddress (d : Nat) : Nat := fontBase + 5 * d

end Sys2Proof.Machine
end

