-- ==== Sys2Proof/Machine/State.lean ====
section
/-! DEFINITION. The Machine State of 10_state.md R20 as plain data, the errors an operation can return (60_exceptions.md
R220), and the state after creation (R35). -/

namespace Sys2Proof.Machine

/-- The error results of R220. An operation that returns one leaves the state as it was (R97, R228). Each is the spec's own
error, so stopping with it is the block's behaviour: safe. -/
inductive Fault where
  /-- Raised by the step at decode: the word matches no row of R74 (R95, R221). Safe. -/
  | invalidOpcode (word : Word)
  /-- Raised by 2NNN with SP = 16 (R112, R222). Safe. -/
  | stackOverflow
  /-- Raised by 00EE with SP = 0 (R110, R223). Safe. -/
  | stackUnderflow
  /-- Raised by the fetch (R93), BNNN, FX1E, FX33, FX55, FX65 and DXYN with the offending address (R224). Safe: where the
  source leaves it open whether the address wraps, the spec stops (D1, D7, D8, D13). -/
  | addressOutOfRange (address : Nat)
  /-- Raised by the load operation, never by a step: more than 3584 bytes (R225, R262). Safe. -/
  | programTooLarge (count : Nat)
  /-- Raised by EX9E, EXA1 and FX29 with V[x] > 15 (R226). Safe: an error the spec adds where the source gives no result
  (D14, D15). -/
  | operandOutOfRange (value : Byte)
deriving DecidableEq, Repr

/-- The reasons the model gives no meaning. -/
inductive Refusal where
  /-- An instruction without a meaning in the model, by its mnemonic. No arm of exec raises it: safe. -/
  | notModelled (mnemonic : String)
deriving DecidableEq, Repr


/-- The execution sub-state of R31. -/
inductive Run where
  /-- Normal stepping. -/
  | running
  /-- `AwaitingKey(x, latched)`: the FX0A that entered it names `x`; `latched` is the key whose press ended the wait. -/
  | awaitingKey (x : Reg) (latched : Option Key)
deriving DecidableEq, Repr

/-- The bytes of `memory` that differ from their creation value, addresses rising (Machine/Ops.lean: `Memory.wf`). -/
abbrev Memory := List Host.Cell

/-- The framebuffer `fb[y][x]`: 32 rows (y, from the top) of 64 cells (x, from the left) (R30). -/
abbrev Screen := Vector (Vector Bool 64) 32

/-- The Machine State: the components of R20, under the spec's names, and the model's two fields for the random byte. -/
structure State where
  /-- R21, R50: the 4096 bytes, as the cells that differ from creation. -/
  memory : Memory
  /-- R22: V0..VF; V[15] is VF, the flag (R23). -/
  V : Vector Byte 16
  /-- R25: the index register. -/
  I : Word
  /-- R26: the address of the next instruction to fetch. -/
  pc : Word
  /-- R27: the return addresses, stale entries kept. -/
  stack : Vector Addr 16
  /-- R27: the number of entries in use, 0..16. -/
  SP : Fin 17
  /-- R28: the delay timer. -/
  DT : Byte
  /-- R28: the sound timer. -/
  ST : Byte
  /-- R29: the key latches. -/
  key : Vector Bool 16
  /-- R30: the framebuffer. -/
  fb : Screen
  /-- R31: the run sub-state. -/
  run : Run
  /-- MODEL'S OWN (R33, log entry 1): random bytes the host has supplied and no CXNN has consumed, oldest first. -/
  draws : List Byte
  /-- MODEL'S OWN (R33, log entry 1): how many free random bytes have been consumed. -/
  drawIndex : Nat
deriving DecidableEq, Repr

/-- What an operation answers: `Ok(S')` is `next`, `Err(E, info)` is `fault` (R90, R227). -/
abbrev Result := Host.Outcome State Fault Refusal

/-- The state after creation (R35, R260): memory at its creation contents (nothing listed), everything else zero but
pc = 0x200; run = Running. The model's own two fields are a DESIGN CHOICE (log entry 1). -/
def State.reset : State where
  memory := []
  V := Vector.replicate 16 0#8
  I := 0x0000#16
  pc := 0x0200#16
  stack := Vector.replicate 16 0#12
  SP := 0
  DT := 0#8
  ST := 0#8
  key := Vector.replicate 16 false
  fb := Vector.replicate 32 (Vector.replicate 64 false)
  run := .running
  draws := []
  drawIndex := 0

end Sys2Proof.Machine
end

