-- ==== Sys2Proof/Machine/Ops.lean ====
section
/-! DEFINITION. The named operations over memory, registers, program counter, call stack and run sub-state that the
instructions share, and what returning an error is. -/

namespace Sys2Proof.Machine

/-! ## Errors

The block has no trap mechanism: no vector, no saved pc or cause, no mode change and no return from a trap (60_exceptions.md
R230). `raise` is the whole of what an error does, and no instruction returns from one. -/

/-- `raise E(info)` of R12: the operation ends with the failure result, and no state is handed on (R97, R227). -/
def raise (e : Fault) : Result := .fault e

/-- The numeric code of an error (R220, D20). -/
def Fault.code : Fault → Nat
  | .invalidOpcode _ => 1
  | .stackOverflow => 2
  | .stackUnderflow => 3
  | .addressOutOfRange _ => 4
  | .programTooLarge _ => 5
  | .operandOutOfRange _ => 6

/-- The state an operation leaves: the next state on success, the state it began in on an error (R97, R228). -/
def stateAfter (s : State) : Result → State
  | .next t => t
  | .fault _ => s
  | .refused _ => s

/-! ## Memory (20_memory.md)

One canonical form: addresses strictly rising, at most 0xFFF, and no cell equal to its creation value. -/

/-- The canonical form of `Memory`. -/
abbrev Memory.wf (m : Memory) : Prop :=
  m.Pairwise (fun a b => a.1 < b.1) ∧ ∀ c ∈ m, c.1 ≤ 0xFFF ∧ c.2 ≠ creationByte c.1

/-- The byte listed at `a`, if one is. -/
def Memory.listed : Memory → Nat → Option Byte
  | [], _ => none
  | c :: m, a => if c.1 = a then some c.2 else Memory.listed m a

/-- `memory[a]`: the listed byte, or the creation value (R11, R35, R60). -/
def Memory.read (m : Memory) (a : Nat) : Byte := (m.listed a).getD (creationByte a)

/-- List a cell at its place in the rising order. -/
def Memory.insert (c : Host.Cell) : Memory → Memory
  | [] => [c]
  | d :: m => if c.1 < d.1 then c :: d :: m else d :: Memory.insert c m

/-- Take the cells at `a` out of the list. -/
def Memory.erase (m : Memory) (a : Nat) : Memory := m.filter (fun c => decide (c.1 ≠ a))

/-- `memory[a] <- v` (R11): a cell equal to its creation value is not listed. -/
def Memory.write (m : Memory) (a : Nat) (v : Byte) : Memory :=
  if v = creationByte a then m.erase a else (m.erase a).insert (a, v)

/-- Write bytes at `a`, `a+1`, … in increasing address order (R53, R60). -/
def Memory.writeBytes (m : Memory) (a : Nat) : List Byte → Memory
  | [] => m
  | v :: vs => Memory.writeBytes (m.write a v) (a + 1) vs

/-- `MemRead(a, 1)` (R11). The rules check the address first (R52), so `a` is at most 0xFFF where it matters. -/
def State.readByte (s : State) (a : Nat) : Byte := s.memory.read a

/-- The bytes at `a`, …, `a + k - 1`, lowest address first. -/
def State.readBytes (s : State) (a k : Nat) : List Byte := (List.range k).map (fun j => s.readByte (a + j))

/-- `MemWrite` of consecutive bytes from `a` up (R11, R51). -/
def State.writeBytes (s : State) (a : Nat) (vs : List Byte) : State :=
  { s with memory := s.memory.writeBytes a vs }

/-- The span check of R160 for the bytes `base .. base + k - 1`, made whole before any access (R52): the error to raise, if
the highest address is above 0xFFF. A span of no bytes is not checked (R182, D12). -/
def spanFault (base k : Nat) : Option Fault :=
  if k = 0 then none
  else if base + k - 1 > 0xFFF then some (.addressOutOfRange (base + k - 1)) else none

/-! ## Registers -/

/-- `V[x]` (R22). -/
def State.getV (s : State) (x : Reg) : Byte := s.V[x.toNat]'x.isLt

/-- `V[x] <- v` (R22): no register is hard-wired. -/
def State.setV (s : State) (x : Reg) (v : Byte) : State := { s with V := s.V.set x.toNat v x.isLt }

/-- `V[k] <- v` for the listed bytes, k counting up from `k` (R167). -/
def State.setVs (s : State) (k : Nat) : List Byte → State
  | [] => s
  | v :: vs => State.setVs (s.setV (BitVec.ofNat 4 k) v) (k + 1) vs

/-- `V[0] .. V[x]`, in order (R166). -/
def State.getVs (s : State) (x : Reg) : List Byte :=
  (List.range (x.toNat + 1)).map (fun k => s.getV (BitVec.ofNat 4 k))

/-- `I <- v` (R25). -/
def State.setI (s : State) (v : Word) : State := { s with I := v }

/-- `DT <- v` (R28). -/
def State.setDT (s : State) (v : Byte) : State := { s with DT := v }

/-- `ST <- v` (R28). -/
def State.setST (s : State) (v : Byte) : State := { s with ST := v }

/-- `fb <- v` (R30). -/
def State.setFb (s : State) (v : Screen) : State := { s with fb := v }

/-- `run <- v` (R31). -/
def State.setRun (s : State) (v : Run) : State := { s with run := v }

/-- `key[k] <- v` (R29). -/
def State.setKey (s : State) (k : Key) (v : Bool) : State := { s with key := s.key.set k.toNat v k.isLt }

/-- `key[k]` (R29). -/
def State.getKey (s : State) (k : Key) : Bool := s.key[k.toNat]'k.isLt

/-! ## Program counter (40_execution_cycle.md R96, R100) -/

/-- `pc <- v`. -/
def State.setPc (s : State) (v : Word) : State := { s with pc := v }

/-- The default advance `pc <- pc + 2` (R96), unchecked and unwrapped at 0xFFF (D2). -/
def State.advance (s : State) : State := s.setPc (s.pc + 2)

/-- A conditional skip: `pc <- pc + 4` when the condition holds, `pc <- pc + 2` otherwise (R100). -/
def State.skipIf (s : State) (p : Bool) : State := s.setPc (if p then s.pc + 4 else s.pc + 2)

/-! ## Call stack (10_state.md R27) -/

/-- Push when `SP < 16`: `stack[SP] <- v; SP <- SP + 1`. -/
def State.push (s : State) (v : Addr) (h : s.SP.val < 16) : State :=
  { s with stack := s.stack.set s.SP.val v h, SP := ⟨s.SP.val + 1, by omega⟩ }

/-- The entry a pop yields when `SP > 0`: `stack[SP - 1]`. -/
def State.top (s : State) (h : 0 < s.SP.val) : Addr := s.stack[s.SP.val - 1]'(by have := s.SP.isLt; omega)

/-- Pop: `SP <- SP - 1`; the entry is not cleared (D6). -/
def State.pop (s : State) : State := { s with SP := ⟨s.SP.val - 1, by have := s.SP.isLt; omega⟩ }

/-! ## The random byte (10_state.md R33, log entry 1) -/

/-- `draw_rand()`: the oldest byte the host has supplied, or else the free value at the counter. -/
def State.nextDraw (s : State) : Byte :=
  match s.draws with
  | r :: _ => r
  | [] => Config.drawRand s.drawIndex

/-- The byte of `nextDraw` is consumed: "each CXNN consumes one byte supplied from outside" (R32). -/
def State.consumeDraw (s : State) : State :=
  match s.draws with
  | _ :: rs => { s with draws := rs }
  | [] => { s with drawIndex := s.drawIndex + 1 }

/-! ## Fetch and the run sub-state -/

/-- The word at `pc`: `MemRead(pc, 1) ++ MemRead(pc + 1, 1)` (R53, R94). -/
def State.fetchWord (s : State) : Word := wordOfBytes (s.readByte s.pc.toNat) (s.readByte (s.pc.toNat + 1))

/-- A fetch reaches both bytes: `pc <= 0xFFE` (R93). -/
def State.fetchable (s : State) : Bool := s.pc.toNat ≤ 0xFFE

/-- The step that completes an FX0A: `V[x] <- k; pc <- pc + 2; run <- Running` (R92). -/
def State.completeWait (s : State) (x : Reg) (k : Key) : State :=
  ((s.setV x (k.setWidth 8)).advance).setRun .running

/-- The `awaiting` result of a successful step, read off the state it answers (R101). -/
def State.awaiting (s : State) : Bool :=
  match s.run with
  | .running => false
  | .awaitingKey _ _ => true

end Sys2Proof.Machine
end

