-- ==== Sys2Proof/Machine/Flags.lean ====
section
/-! DEFINITION. The flag computations (42_alu.md R131): VF is V[15], every flag is 0 or 1 (10_state.md R23), and where an
instruction writes a result and a flag, the flag is written last (R132, D9). -/

namespace Sys2Proof.Machine

/-- VF, the register that doubles as the flag (R23). -/
abbrev VF : Reg := 0xF#4

/-- Carry: the true sum exceeds 255 (R131, R139). -/
def carry (a b : Byte) : Bool := decide (a.toNat + b.toNat > 255)

/-- No borrow: `minuend >= subtrahend` before the subtraction (R131, R140, R142). -/
def noBorrow (minuend subtrahend : Byte) : Bool := decide (minuend.toNat ≥ subtrahend.toNat)

/-- The bit a right shift drops: bit 0 of the operand (R141). -/
def shiftedOutLow (a : Byte) : Bool := a.getLsbD 0

/-- The bit a left shift drops: bit 7 of the operand (R143). -/
def shiftedOutHigh (a : Byte) : Bool := a.getLsbD 7

/-- `V[15] <- bool01(p)` (R131, R182). -/
def State.setFlag (s : State) (p : Bool) : State := s.setV VF (bool01 p)

/-- `V[x] <- v; V[15] <- bool01(p)`, in that order (R132). -/
def State.setResultAndFlag (s : State) (x : Reg) (v : Byte) (p : Bool) : State := (s.setV x v).setFlag p

end Sys2Proof.Machine
end

