-- ==== Sys2Proof/Machine/Alu.lean ====
section
/-! DEFINITION. 42_alu.md: register and ALU instructions. Arithmetic is unsigned modulo 256 (R130); operands are read
from the state before the instruction (R99). -/

namespace Sys2Proof.Machine

/-- A result without a flag: `V[x] <- v; pc <- pc + 2`. -/
def aluResult (x : Reg) (v : Byte) (s : State) : Result := .next (s.setV x v).advance

/-- A result with a flag: `V[x] <- v; V[15] <- bool01(p); pc <- pc + 2` (R132). -/
def aluResultFlag (x : Reg) (v : Byte) (p : Bool) (s : State) : Result := .next (s.setResultAndFlag x v p).advance

/-- 6XNN `LD Vx, byte` (R133). -/
def execLdImm (x : Reg) (nn : Byte) (s : State) : Result := aluResult x nn s

/-- 7XNN `ADD Vx, byte` (R134): no flag. -/
def execAddImm (x : Reg) (nn : Byte) (s : State) : Result := aluResult x (s.getV x + nn) s

/-- 8XY0 `LD Vx, Vy` (R135). -/
def execLdReg (x y : Reg) (s : State) : Result := aluResult x (s.getV y) s

/-- 8XY1 `OR Vx, Vy` (R136): VF is not reset (D10). -/
def execOrReg (x y : Reg) (s : State) : Result := aluResult x (s.getV x ||| s.getV y) s

/-- 8XY2 `AND Vx, Vy` (R137): VF is not reset (D10). -/
def execAndReg (x y : Reg) (s : State) : Result := aluResult x (s.getV x &&& s.getV y) s

/-- 8XY3 `XOR Vx, Vy` (R138): VF is not reset (D10). -/
def execXorReg (x y : Reg) (s : State) : Result := aluResult x (s.getV x ^^^ s.getV y) s

/-- 8XY4 `ADD Vx, Vy` (R139). -/
def execAddReg (x y : Reg) (s : State) : Result :=
  aluResultFlag x (s.getV x + s.getV y) (carry (s.getV x) (s.getV y)) s

/-- 8XY5 `SUB Vx, Vy` (R140). -/
def execSubReg (x y : Reg) (s : State) : Result :=
  aluResultFlag x (s.getV x - s.getV y) (noBorrow (s.getV x) (s.getV y)) s

/-- 8XY6 `SHR Vx, Vy` (R141): V[y] is not read. -/
def execShr (x _y : Reg) (s : State) : Result := aluResultFlag x (s.getV x >>> 1) (shiftedOutLow (s.getV x)) s

/-- 8XY7 `SUBN Vx, Vy` (R142). -/
def execSubnReg (x y : Reg) (s : State) : Result :=
  aluResultFlag x (s.getV y - s.getV x) (noBorrow (s.getV y) (s.getV x)) s

/-- 8XYE `SHL Vx, Vy` (R143): V[y] is not read. -/
def execShl (x _y : Reg) (s : State) : Result := aluResultFlag x (s.getV x <<< 1) (shiftedOutHigh (s.getV x)) s

/-- CXNN `RND Vx, byte` (R144): `V[x] <- draw_rand() & nn`, the byte consumed (R32). -/
def execRnd (x : Reg) (nn : Byte) (s : State) : Result := aluResult x (s.nextDraw &&& nn) s.consumeDraw

end Sys2Proof.Machine
end

