-- ==== Sys2Proof/Machine/Operands.lean ====
section
/-! DEFINITION. The operand forms of the instructions (30_encoding.md R71, R73): register operands are `State.getV`; here
are the address, digit and key operands and the addresses computed from `I` and `V[0]`. -/

namespace Sys2Proof.Machine

/-- `nnn` used as an address: zero-extended to the 16 bits of `pc` or `I` (R73). -/
def addrOperand (nnn : Addr) : Word := nnn.setWidth 16

/-- The target of BNNN, `nnn + V[0]`, as a natural number (R117). -/
def offsetTarget (nnn : Addr) (s : State) : Nat := nnn.toNat + (s.getV 0).toNat

/-- The sum of FX1E, `I + V[x]`, as a natural number (R163). -/
def indexSum (x : Reg) (s : State) : Nat := s.I.toNat + (s.getV x).toNat

/-- An operand that indexes a table of 16 entries (the keypad, the font): the error to raise when it is above 15 (R226). -/
def indexFault (v : Byte) : Option Fault := if v.toNat > 0xF then some (.operandOutOfRange v) else none

/-- A checked key operand as a key index. -/
def keyOperand (v : Byte) : Key := v.setWidth 4

/-- Does the key operand `V[x]` name a pressed key (R200, R201)? -/
def keyPressed (x : Reg) (s : State) : Bool := s.getKey (keyOperand (s.getV x))

/-- The address `I` an I-relative span starts at (R160). -/
def indexBase (s : State) : Nat := s.I.toNat

end Sys2Proof.Machine
end

