-- ==== Sys2Proof/Machine/ControlFlow.lean ====
section
/-! DEFINITION. 41_control_flow.md: return, jump, call, the register skips, jump with offset. -/

namespace Sys2Proof.Machine

/-- 00EE `RET` (R110): the popped entry is the address of the call, so the return goes to it plus 2 (C4). -/
def execRet (s : State) : Result :=
  if h : 0 < s.SP.val then .next (s.pop.setPc ((s.top h).setWidth 16 + 2)) else raise .stackUnderflow

/-- 1NNN `JP addr` (R111). -/
def execJp (nnn : Addr) (s : State) : Result := .next (s.setPc (addrOperand nnn))

/-- 2NNN `CALL addr` (R112): the call's own address is pushed. It is at most 0xFFE in a step (R27); for another `pc` the
12-bit entry holds the low 12 bits (log entry 19). -/
def execCall (nnn : Addr) (s : State) : Result :=
  if h : s.SP.val < 16 then .next ((s.push (s.pc.setWidth 12) h).setPc (addrOperand nnn)) else raise .stackOverflow

/-- 3XNN `SE Vx, byte` (R113). -/
def execSeImm (x : Reg) (nn : Byte) (s : State) : Result := .next (s.skipIf (s.getV x == nn))

/-- 4XNN `SNE Vx, byte` (R114). -/
def execSneImm (x : Reg) (nn : Byte) (s : State) : Result := .next (s.skipIf (s.getV x != nn))

/-- 5XY0 `SE Vx, Vy` (R115). -/
def execSeReg (x y : Reg) (s : State) : Result := .next (s.skipIf (s.getV x == s.getV y))

/-- 9XY0 `SNE Vx, Vy` (R116). -/
def execSneReg (x y : Reg) (s : State) : Result := .next (s.skipIf (s.getV x != s.getV y))

/-- BNNN `JP V0, addr` (R117): a target above 0xFFF is an error, not wrapped (C5). -/
def execJpV0 (nnn : Addr) (s : State) : Result :=
  if offsetTarget nnn s > 0xFFF then raise (.addressOutOfRange (offsetTarget nnn s))
  else .next (s.setPc (BitVec.ofNat 16 (offsetTarget nnn s)))

end Sys2Proof.Machine
end

