-- ==== Sys2Proof/Machine/Display.lean ====
section
/-! DEFINITION. 44_display.md: clear screen and the sprite blitter. -/

namespace Sys2Proof.Machine

/-- A framebuffer with every cell off (R181). -/
def Screen.clear : Screen := Vector.replicate 32 (Vector.replicate 64 false)

/-- `fb[y][x]` (R30). -/
def Screen.pixel (fb : Screen) (x : Fin 64) (y : Fin 32) : Bool := (fb[y.val])[x.val]

/-- `fb[y][x] <- fb[y][x] ^ 1` (R182). -/
def Screen.toggle (fb : Screen) (x : Fin 64) (y : Fin 32) : Screen :=
  fb.set y.val ((fb[y.val]).set x.val (!fb.pixel x y))

/-- Columns wrap modulo 64 (R180). -/
def wrapColumn (x : Nat) : Fin 64 := Fin.ofNat 64 x

/-- Rows wrap modulo 32 (R180). -/
def wrapRow (y : Nat) : Fin 32 := Fin.ofNat 32 y

/-- What a draw has done so far: the framebuffer and the collision it has seen (R182). -/
structure Canvas where
  fb : Screen
  collision : Bool
deriving DecidableEq, Repr

/-- One sprite pixel: column `c` of the sprite byte `b` in row `r` (R182); the most-significant bit is column 0. -/
def drawPixel (x0 y0 r : Nat) (b : Byte) (d : Canvas) (c : Nat) : Canvas :=
  if b.getLsbD (7 - c) then
    { fb := d.fb.toggle (wrapColumn (x0 + c)) (wrapRow (y0 + r))
      collision := d.collision || d.fb.pixel (wrapColumn (x0 + c)) (wrapRow (y0 + r)) }
  else d

/-- One sprite row: `for c in 0..7` (R182). -/
def drawRow (x0 y0 r : Nat) (b : Byte) (d : Canvas) : Canvas := (List.range 8).foldl (drawPixel x0 y0 r b) d

/-- The sprite rows from row `r` on: `for r in 0..n-1` (R182). -/
def drawRows (x0 y0 : Nat) (r : Nat) : List Byte → Canvas → Canvas
  | [], d => d
  | b :: bs, d => drawRows x0 y0 (r + 1) bs (drawRow x0 y0 r b d)

/-- A whole sprite with its top-left at column `x0`, row `y0`. -/
def drawSprite (x0 y0 : Nat) (bytes : List Byte) (fb : Screen) : Canvas := drawRows x0 y0 0 bytes ⟨fb, false⟩

/-- The start column `V[x] mod 64` (R180, R182). -/
def startColumn (x : Reg) (s : State) : Nat := (s.getV x).toNat % 64

/-- The start row `V[y] mod 32` (R180, R182, C3). -/
def startRow (y : Reg) (s : State) : Nat := (s.getV y).toNat % 32

/-- 00E0 `CLS` (R181): VF is not written. -/
def execCls (s : State) : Result := .next (s.setFb Screen.clear).advance

/-- DXYN `DRW Vx, Vy, nibble` (R182): the coordinates are read before VF is written; a sprite of no rows is not checked,
draws nothing and clears VF (D12). -/
def execDrw (x y : Reg) (n : BitVec 4) (s : State) : Result :=
  match spanFault (indexBase s) n.toNat with
  | some e => raise e
  | none =>
    let d := drawSprite (startColumn x s) (startRow y s) (s.readBytes (indexBase s) n.toNat) s.fb
    .next ((s.setFb d.fb).setFlag d.collision).advance

end Sys2Proof.Machine
end

