-- ==== Sys2Proof/Machine/IndexMemory.lean ====
section
/-! DEFINITION. 43_index_memory.md: the index register and the instructions that store to and load from memory at `I`. -/

namespace Sys2Proof.Machine

/-- The three decimal digits of a byte, hundreds first (R165). -/
def bcdDigits (v : Byte) : List Byte :=
  [BitVec.ofNat 8 (v.toNat / 100), BitVec.ofNat 8 (v.toNat / 10 % 10), BitVec.ofNat 8 (v.toNat % 10)]

/-- Store bytes at `I`, `I+1`, … after the whole span is checked (R160); `I` is unchanged. -/
def storeAtIndex (vs : List Byte) (s : State) : Result :=
  match spanFault (indexBase s) vs.length with
  | some e => raise e
  | none => .next (s.writeBytes (indexBase s) vs).advance

/-- ANNN `LD I, addr` (R162). -/
def execLdI (nnn : Addr) (s : State) : Result := .next (s.setI (addrOperand nnn)).advance

/-- FX1E `ADD I, Vx` (R163): a sum above 0xFFF is an error; VF is not written. -/
def execAddI (x : Reg) (s : State) : Result :=
  if indexSum x s > 0xFFF then raise (.addressOutOfRange (indexSum x s))
  else .next (s.setI (BitVec.ofNat 16 (indexSum x s))).advance

/-- FX29 `LD F, Vx` (R164): a digit above 15 is an error (R226). -/
def execLdF (x : Reg) (s : State) : Result :=
  match indexFault (s.getV x) with
  | some e => raise e
  | none => .next (s.setI (BitVec.ofNat 16 (glyphAddress (s.getV x).toNat))).advance

/-- FX33 `LD B, Vx` (R165). -/
def execLdB (x : Reg) (s : State) : Result := storeAtIndex (bcdDigits (s.getV x)) s

/-- FX55 `LD [I], Vx` (R166). -/
def execStoreRegs (x : Reg) (s : State) : Result := storeAtIndex (s.getVs x) s

/-- FX65 `LD Vx, [I]` (R167). -/
def execLoadRegs (x : Reg) (s : State) : Result :=
  match spanFault (indexBase s) (x.toNat + 1) with
  | some e => raise e
  | none => .next (s.setVs 0 (s.readBytes (indexBase s) (x.toNat + 1))).advance

end Sys2Proof.Machine
end

