-- ==== Sys2Proof/Machine/KeysTimers.lean ====
section
/-! DEFINITION. 45_timers_keys.md: key skips, timer reads and writes, wait for key. -/

namespace Sys2Proof.Machine

/-- EX9E `SKP Vx` (R200). -/
def execSkp (x : Reg) (s : State) : Result :=
  match indexFault (s.getV x) with
  | some e => raise e
  | none => .next (s.skipIf (keyPressed x s))

/-- EXA1 `SKNP Vx` (R201). -/
def execSknp (x : Reg) (s : State) : Result :=
  match indexFault (s.getV x) with
  | some e => raise e
  | none => .next (s.skipIf (!keyPressed x s))

/-- FX07 `LD Vx, DT` (R202). -/
def execLdVxDT (x : Reg) (s : State) : Result := .next (s.setV x s.DT).advance

/-- FX0A `LD Vx, K` (R203): enters AwaitingKey; pc is not advanced. A held key does not count (D17). -/
def execLdVxK (x : Reg) (s : State) : Result := .next (s.setRun (.awaitingKey x none))

/-- FX15 `LD DT, Vx` (R204). -/
def execLdDTVx (x : Reg) (s : State) : Result := .next (s.setDT (s.getV x)).advance

/-- FX18 `LD ST, Vx` (R205). -/
def execLdSTVx (x : Reg) (s : State) : Result := .next (s.setST (s.getV x)).advance

end Sys2Proof.Machine
end

