-- ==== Sys2Proof/Machine/Step.lean ====
section
/-! DEFINITION. The step operation (40_execution_cycle.md R90 to R103), and where the host puts a word for it to fetch. -/

namespace Sys2Proof.Machine

/-- One step (R103). Awaiting with no key it changes nothing (R91); with a latched key it completes the FX0A and executes
nothing else (R92); running it checks the fetch (R93), fetches (R94), decodes (R95) and executes (R96), the first failing
check being the error (R98). -/
def step (s : State) : Host.Outcome State Fault Refusal :=
  match s.run with
  | .awaitingKey _ none => .next s
  | .awaitingKey x (some k) => .next (s.completeWait x k)
  | .running =>
    if s.fetchable then
      match decodeWord s.fetchWord with
      | some i => exec i s
      | none => raise (.invalidOpcode s.fetchWord)
    else raise (.addressOutOfRange s.pc.toNat)

/-- The state with an instruction of `nbits` bits `w` stored at `pc` and the block running, so that the very next step
fetches it. It stands for the host's load operation, by which every program comes into memory (R263). Where `pc` is above
0xFFE no step fetches (R93) and memory is left alone. Log entry 20. -/
def State.withFetchWord (s : State) (nbits w : Nat) : State :=
  if s.fetchable then
    (s.writeBytes s.pc.toNat [highByte (tableWord nbits w), lowByte (tableWord nbits w)]).setRun .running
  else s

end Sys2Proof.Machine
end

