-- ==== Sys2Proof/Machine/Ports.lean ====
section
/-! DEFINITION. The host ports (60_exceptions.md R240): load program, step, tick timers, key press and release,
framebuffer read, and the supply of a random byte (10_state.md R33). Each is atomic and happens between steps (R55, R240);
their order is free (R241, D28). -/

namespace Sys2Proof.Machine

/-- Load program (70_reset_and_hazards.md R262): bytes to 0x200.. ; ProgramTooLarge above 3584 bytes (R225), and then
nothing is written (D25). -/
def loadProgram (image : List Byte) (s : State) : Result :=
  if image.length > Config.maxProgram then raise (.programTooLarge image.length)
  else .next (s.writeBytes Config.programOrigin image)

/-- A timer counts down by 1 and stays at 0 (R242). -/
def countDown (t : Byte) : Byte := if t.toNat > 0 then t - 1 else t

/-- Tick timers (R242). -/
def tickTimers (s : State) : State := (s.setDT (countDown s.DT)).setST (countDown s.ST)

/-- The run sub-state after a released key `k` has been pressed: it latches where none is latched (R243). -/
def Run.latch (k : Key) : Run → Run
  | .awaitingKey x none => .awaitingKey x (some k)
  | r => r

/-- Key press (R243): a press of a pressed key is no transition (D17). -/
def pressKey (k : Key) (s : State) : State :=
  if s.getKey k then s else (s.setKey k true).setRun (s.run.latch k)

/-- Key release (R244): a latched key stays latched. -/
def releaseKey (k : Key) (s : State) : State := s.setKey k false

/-- Framebuffer read (R245). -/
def readFramebuffer (x : Fin 64) (y : Fin 32) (s : State) : Bool := s.fb.pixel x y

/-- The host supplies a random byte for a CXNN to come (R33). -/
def supplyDraw (r : Byte) (s : State) : State := { s with draws := s.draws ++ [r] }

/-- One operation of the host. -/
inductive Port where
  | load (image : List Byte)
  | step
  | tick
  | press (k : Key)
  | release (k : Key)
  | readFb (x : Fin 64) (y : Fin 32)
  | supply (r : Byte)
deriving DecidableEq, Repr

/-- What an operation of the host does to the Machine State (R240). -/
def applyPort (p : Port) (s : State) : Result :=
  match p with
  | .load image => loadProgram image s
  | .step => Sys2Proof.Machine.step s
  | .tick => .next (tickTimers s)
  | .press k => .next (pressKey k s)
  | .release k => .next (releaseKey k s)
  | .readFb _ _ => .next s
  | .supply r => .next (supplyDraw r s)

/-- A host schedule (R241, R273): operations in the order the host chose them. An operation that returns an error leaves
the state alone and the host may go on (R221, R228); a host that stops there is a shorter schedule. -/
def runPorts : List Port → State → State
  | [], s => s
  | p :: ps, s => runPorts ps (stateAfter s (applyPort p s))

end Sys2Proof.Machine
end

