-- ==== Sys2Proof/Safety.lean ====
section
/-! DEFINITION. What counts as a safe state and a safe run, in the terms the claims use: the invariant of the values the
rules can produce, the states a host can reach, and a step that succeeds. -/

namespace Sys2Proof.Machine

/-- The ranges the rules keep: memory in canonical form with no address above 0xFFF (R50); `I` in 0x000..0xFFF (R25);
`pc` at most 0x1002 (R26), and fetchable while an FX0A waits (R92); every stack entry the address of a 2NNN that was
fetched, at most 0xFFE (R27). -/
structure State.Inv (s : State) : Prop where
  memory_wf : s.memory.wf
  index_addressable : s.I.toNat ≤ 0xFFF
  pc_bounded : s.pc.toNat ≤ 0x1002
  waiting_fetchable : s.run ≠ .running → s.pc.toNat ≤ 0xFFE
  stack_fetchable : ∀ k : Fin 16, (s.stack[k.val]).toNat ≤ 0xFFE

/-- The states a host can bring the block to from creation (R273). -/
def Reachable (s : State) : Prop := ∃ ps : List Port, runPorts ps State.reset = s

/-- The next step succeeds: it answers a next state, not an error (R90). -/
def StepSucceeds (s : State) : Prop := ∃ t, step s = .next t

end Sys2Proof.Machine
end

