-- ==== Sys2Proof/Certificates/Slice0/Obligations.lean ====
section
/-! DEFINITION. The statements for the provers, and the vocabulary they are written in: frames, what the rules say of
each instruction's destinations, errors and next pc, and the sprite pixel of a cell. -/

namespace Sys2Proof.Claims

open Sys2Proof.Machine

/-! ## Frames -/

/-- The components of the state beside the general registers (10_state.md R20); `random` is the model's own two fields. -/
inductive Comp where
  | memory | I | pc | stack | SP | DT | ST | key | fb | run | random
deriving DecidableEq, Repr

/-- A component is the same in two states; memory through the model's read of one byte, at every address. -/
def Keeps (c : Comp) (s t : State) : Prop :=
  match c with
  | .memory => ∀ a : Nat, t.readByte a = s.readByte a
  | .I => t.I = s.I
  | .pc => t.pc = s.pc
  | .stack => t.stack = s.stack
  | .SP => t.SP = s.SP
  | .DT => t.DT = s.DT
  | .ST => t.ST = s.ST
  | .key => t.key = s.key
  | .fb => t.fb = s.fb
  | .run => t.run = s.run
  | .random => t.draws = s.draws ∧ t.drawIndex = s.drawIndex

/-- Every component but the listed ones is the same. -/
def KeepsBut (cs : List Comp) (s t : State) : Prop := ∀ c, c ∉ cs → Keeps c s t

/-- Every general register but the listed ones is the same. -/
def KeepsRegsBut (rs : List Reg) (s t : State) : Prop := ∀ r, r ∉ rs → t.getV r = s.getV r

/-- Every byte of memory outside the `k` bytes from `base` up is the same. -/
def KeepsBytesOutside (base k : Nat) (s t : State) : Prop :=
  ∀ a : Nat, ¬(base ≤ a ∧ a < base + k) → t.readByte a = s.readByte a

/-! ## What the rules say of every instruction -/

/-- The section of the spec an instruction's rule stands in. -/
inductive Family where
  | control | alu | index | display | keys
deriving DecidableEq, Repr

/-- 41_control_flow.md, 42_alu.md, 43_index_memory.md, 44_display.md, 45_timers_keys.md. -/
def family : Instr → Family
  | .ret | .jp _ | .call _ | .seImm _ _ | .sneImm _ _ | .seReg _ _ | .sneReg _ _ | .jpV0 _ => .control
  | .ldImm _ _ | .addImm _ _ | .ldReg _ _ | .orReg _ _ | .andReg _ _ | .xorReg _ _ | .addReg _ _ | .subReg _ _
  | .shr _ _ | .subnReg _ _ | .shl _ _ | .rnd _ _ => .alu
  | .ldI _ | .addI _ | .ldF _ | .ldB _ | .storeRegs _ | .loadRegs _ => .index
  | .cls | .drw _ _ _ => .display
  | .skp _ | .sknp _ | .ldVxDT _ | .ldVxK _ | .ldDTVx _ | .ldSTVx _ => .keys

/-- The instructions that write VF as a flag: "exactly 8XY4, 8XY5, 8XY6, 8XY7, 8XYE … and DXYN" (R23). -/
def writesFlag : Instr → Bool
  | .addReg _ _ | .subReg _ _ | .shr _ _ | .subnReg _ _ | .shl _ _ | .drw _ _ _ => true
  | _ => false

/-- The register is a destination of the instruction, named in it or as the flag (R22, R23). FX0A writes its register in
the completing step (R92), FX65 writes V0..V[x] (R167). -/
def writesReg (i : Instr) (r : Reg) : Bool :=
  (writesFlag i && r == VF) ||
  match i with
  | .ldImm x _ | .addImm x _ | .ldReg x _ | .orReg x _ | .andReg x _ | .xorReg x _ | .addReg x _ | .subReg x _
  | .shr x _ | .subnReg x _ | .shl x _ | .rnd x _ | .ldVxDT x => r == x
  | .loadRegs x => decide (r.toNat ≤ x.toNat)
  | _ => false

/-- The components beside the registers and pc that an instruction writes (R25, R27, R28, R30, R31, R32, R51). -/
def writesComps : Instr → List Comp
  | .cls => [.fb]
  | .ret => [.SP]
  | .call _ => [.stack, .SP]
  | .rnd _ _ => [.random]
  | .drw _ _ _ => [.fb]
  | .ldVxK _ => [.run]
  | .ldDTVx _ => [.DT]
  | .ldSTVx _ => [.ST]
  | .ldI _ | .addI _ | .ldF _ => [.I]
  | .ldB _ | .storeRegs _ => [.memory]
  | _ => []

/-- How many bytes from `I` up an instruction stores (R51): none but for FX33 and FX55. -/
def storedBytes : Instr → Nat
  | .ldB _ => 3
  | .storeRegs x => x.toNat + 1
  | _ => 0

/-- The frame of an instruction: registers but its destinations, components but those it writes (and pc), and every byte
of memory but those it stores to, at the address its meaning computes (`indexBase`), are unchanged. -/
def Frame (i : Instr) (s t : State) : Prop :=
  (∀ r, writesReg i r = false → t.getV r = s.getV r) ∧
  (∀ c, c ≠ .pc → c ∉ writesComps i → Keeps c s t) ∧
  KeepsBytesOutside (indexBase s) (storedBytes i) s t

/-- The error of the instruction's own check (R98), `none` where its check passes or it has none. -/
def errorOf (i : Instr) (s : State) : Option Fault :=
  match i with
  | .call _ => if s.SP.val = 16 then some .stackOverflow else none
  | .ret => if s.SP.val = 0 then some .stackUnderflow else none
  | .jpV0 nnn =>
    if nnn.toNat + (s.getV 0).toNat > 0xFFF then some (.addressOutOfRange (nnn.toNat + (s.getV 0).toNat)) else none
  | .addI x => if s.I.toNat + (s.getV x).toNat > 0xFFF then some (.addressOutOfRange (s.I.toNat + (s.getV x).toNat)) else none
  | .ldB _ => if s.I.toNat > 0xFFD then some (.addressOutOfRange (s.I.toNat + 2)) else none
  | .storeRegs x | .loadRegs x =>
    if s.I.toNat + x.toNat > 0xFFF then some (.addressOutOfRange (s.I.toNat + x.toNat)) else none
  | .drw _ _ n =>
    if 0 < n.toNat ∧ s.I.toNat + n.toNat - 1 > 0xFFF then some (.addressOutOfRange (s.I.toNat + n.toNat - 1)) else none
  | .skp x | .sknp x | .ldF x => if (s.getV x).toNat > 15 then some (.operandOutOfRange (s.getV x)) else none
  | _ => none

/-- The pc a skip leaves: 4 further when its condition holds, 2 otherwise (R100). -/
def skipPc (s : State) (p : Prop) [Decidable p] : Word := if p then s.pc + 4 else s.pc + 2

/-- The pc an instruction leaves (R96, R100). -/
def nextPc (i : Instr) (s : State) : Word :=
  match i with
  | .jp nnn | .call nnn => nnn.setWidth 16
  | .jpV0 nnn => BitVec.ofNat 16 (nnn.toNat + (s.getV 0).toNat)
  | .ret => BitVec.ofNat 16 (((s.stack[s.SP.val - 1]?).getD 0).toNat + 2)
  | .seImm x nn => skipPc s (s.getV x = nn)
  | .sneImm x nn => skipPc s (s.getV x ≠ nn)
  | .seReg x y => skipPc s (s.getV x = s.getV y)
  | .sneReg x y => skipPc s (s.getV x ≠ s.getV y)
  | .skp x => skipPc s (s.getKey ((s.getV x).setWidth 4) = true)
  | .sknp x => skipPc s (s.getKey ((s.getV x).setWidth 4) = false)
  | .ldVxK _ => s.pc
  | _ => s.pc + 2

/-! ## The word and the screen -/

/-- The word in the two bytes at `a`, the byte at `a` in bits [15:8] (R53). -/
def wordAt (s : State) (a : Nat) : Word := wordOfBytes (s.readByte a) (s.readByte (a + 1))

/-- The block is running and its fetch reaches both bytes (R93). -/
def CanFetch (s : State) : Prop := s.run = .running ∧ s.pc.toNat ≤ 0xFFE

/-- The instruction's word, masked, is the match value its rule gives ("Encoding: … match … mask …"). -/
def HasRow (i : Instr) (pattern mask : Word) : Prop := encode i &&& mask = pattern

/-- The sprite pixel DXYN puts on the cell in column `px`, row `py`: the cell's place in the sprite, counted from the start
coordinate with wraparound (R180), is inside the 8 columns and `n` rows, and its bit is set, most-significant bit first
(R182). -/
def spritePixel (x y : Reg) (n : BitVec 4) (s : State) (px : Fin 64) (py : Fin 32) : Bool :=
  let c := (px.val + 64 - (s.getV x).toNat % 64) % 64
  let r := (py.val + 32 - (s.getV y).toNat % 32) % 32
  decide (c < 8) && decide (r < n.toNat) && (s.readByte (s.I.toNat + r)).getLsbD (7 - c)

/-- Two states that differ only in stack entries no longer in use (R27). -/
def SameButStaleEntries (s t : State) : Prop :=
  t = { s with stack := t.stack } ∧ ∀ k : Fin 16, k.val < s.SP.val → t.stack[k.val] = s.stack[k.val]

end Sys2Proof.Claims

open Sys2Proof Sys2Proof.Machine Sys2Proof.Claims

/-! ## Encoding -/

/-- Words written out from R74 and from 95_test_vectors.md decode to the instructions they stand for. -/
def Obligations.SampleWordsDecode : Prop :=
  decode [0x00, 0xE0] = .instr .cls [] ∧ decode [0x12, 0x34] = .instr (.jp 0x234) [] ∧
  decode [0x81, 0x24] = .instr (.addReg 1 2) [] ∧ decode [0xC3, 0x0F] = .instr (.rnd 3 0x0F) [] ∧
  decode [0xD1, 0x25] = .instr (.drw 1 2 5) [] ∧ decode [0xE0, 0x9E] = .instr (.skp 0) [] ∧
  decode [0xF2, 0x65] = .instr (.loadRegs 2) [] ∧ decode [0x01, 0x23] = .invalidOpcode 0x0123

/-- The bytes of an instruction decode to it, whatever follows them (R70, R74): no operand bit is lost. -/
def Obligations.DecodeOfEncodeIsTheInstruction : Prop :=
  ∀ (i : Instr) (rest : List Byte), decode (encodeBytes i ++ rest) = .instr i rest

/-- A word that decodes is the word of the instruction it decodes to: no two words are one instruction (R74, R78). -/
def Obligations.EncodeOfDecodeIsTheWord : Prop :=
  ∀ (w : Word) (i : Instr), decodeWord w = some i → encode i = w

/-- R74: a word decodes as the one row of the table with `w & mask = match`, and as nothing where there is none. -/
def Obligations.WordDecodesAsItsRow : Prop :=
  ∀ w : Word,
    (∀ r ∈ opcodeTable, w &&& r.mask = r.pattern → ∃ i, decodeWord w = some i ∧ i.mnemonic = r.mnemonic) ∧
    (∀ i, decodeWord w = some i → ∃ r ∈ opcodeTable, r.mnemonic = i.mnemonic ∧ w &&& r.mask = r.pattern)

/-- R75: the invalid words, by `op` and sub-selector. -/
def Obligations.InvalidWordsAreThoseListed : Prop :=
  ∀ w : Word, decodeWord w = none ↔
    (w.toNat < 0x1000 ∧ w ≠ 0x00E0 ∧ w ≠ 0x00EE) ∨
    ((w.toNat / 0x1000 = 0x5 ∨ w.toNat / 0x1000 = 0x9) ∧ w.toNat % 16 ≠ 0) ∨
    (w.toNat / 0x1000 = 0x8 ∧ w.toNat % 16 ∈ [0x8, 0x9, 0xA, 0xB, 0xC, 0xD, 0xF]) ∨
    (w.toNat / 0x1000 = 0xE ∧ w.toNat % 256 ∉ [0x9E, 0xA1]) ∨
    (w.toNat / 0x1000 = 0xF ∧ w.toNat % 256 ∉ [0x07, 0x0A, 0x15, 0x18, 0x1E, 0x29, 0x33, 0x55, 0x65])

/-- R77: no word matches two rows of the table. -/
def Obligations.OpcodeRowsAreDisjoint : Prop :=
  ∀ (w : Word) (r q : OpRow), r ∈ opcodeTable → q ∈ opcodeTable →
    w &&& r.mask = r.pattern → w &&& q.mask = q.pattern → r = q

/-! ## The step -/

/-- R94: a step in Running with both bytes in range runs the instruction that the big-endian word at pc decodes to. The
meaning moves pc itself; the step adds nothing around it. -/
def Obligations.StepRunsTheDecodedInstruction : Prop :=
  ∀ (s : State) (i : Instr), CanFetch s → decodeWord (wordAt s s.pc.toNat) = some i → step s = exec i s

/-- R95: a word that matches no row stops the step with InvalidOpcode and the word. -/
def Obligations.InvalidWordStopsTheStep : Prop :=
  ∀ s : State, CanFetch s → decodeWord (wordAt s s.pc.toNat) = none →
    step s = .fault (.invalidOpcode (wordAt s s.pc.toNat))

/-- The spec's own decision D1: a fetch with pc above 0xFFE is AddressOutOfRange(pc), with no wrap to 0. -/
def Obligations.FetchAboveTheTopStopsTheStep : Prop :=
  ∀ s : State, s.run = .running → s.pc.toNat > 0xFFE → step s = .fault (.addressOutOfRange s.pc.toNat)

/-- R91: awaiting with no key yet, a step changes nothing and answers awaiting. -/
def Obligations.AwaitingWithoutKeyChangesNothing : Prop :=
  ∀ (s : State) (x : Reg), s.run = .awaitingKey x none → step s = .next s ∧ s.awaiting = true

/-- The spec's own decision D17: a latched key's index goes to V[x], pc moves 2, run is Running, nothing else changes. -/
def Obligations.LatchedKeyCompletesTheWait : Prop :=
  ∀ (s : State) (x : Reg) (k : Key), s.run = .awaitingKey x (some k) →
    ∃ t, step s = .next t ∧ (t.getV x).toNat = k.toNat ∧ t.pc = s.pc + 2 ∧ t.run = .running ∧ t.awaiting = false ∧
      KeepsRegsBut [x] s t ∧ KeepsBut [.pc, .run] s t

/-- R101: the awaiting result is true after a step that executes FX0A and after a step in AwaitingKey with no latch, and
false after every other successful step. -/
def Obligations.AwaitingResultExactlyWhen : Prop :=
  ∀ s t : State, step s = .next t →
    (t.awaiting = true ↔ (∃ x, s.run = .awaitingKey x none) ∨
      (s.run = .running ∧ ∃ x, decodeWord (wordAt s s.pc.toNat) = some (.ldVxK x)))

/-- R98, R224 and the instruction rules: an instruction answers an error exactly when its own check fails, that error;
and whenever the check passes, or it has none, it COMPLETES. It holds of all 34 instructions. Rests on D3, D7, D8, D12 to
D15, the spec's own decisions. -/
def Obligations.EveryInstructionCompletesUnlessItsCheckFails : Prop :=
  ∀ (i : Instr) (s : State),
    (∀ e, exec i s = .fault e ↔ errorOf i s = some e) ∧ (errorOf i s = none → ∃ t, exec i s = .next t)

/-- No step is refused, and ProgramTooLarge is never raised by a step (R220, R225). -/
def Obligations.StepNeverRefusesNorSaysTooLarge : Prop :=
  ∀ s : State, (∀ r, step s ≠ .refused r) ∧ ∀ n, step s ≠ .fault (.programTooLarge n)

/-- The pc every instruction leaves (40_execution_cycle.md): the skips add 4 or 2, the control transfers set their target,
FX0A leaves pc and the completing step advances it, and no other instruction writes pc but by the default advance of 2. That
00EE goes to the popped entry plus 2 is the spec's own decision D5 (log entry 8), FX0A and its completing step D17 (log entry
16), the unchecked and unwrapped sums D2 (log entry 7). -/
def Obligations.NextPcOfEveryInstruction : Prop :=
  (∀ (i : Instr) (s t : State), exec i s = .next t → t.pc = nextPc i s) ∧
  (∀ (s t : State) (x : Reg) (k : Key), s.run = .awaitingKey x (some k) → step s = .next t → t.pc = s.pc + 2)

/-- An error of a step outlives every host operation but a load: after any schedule of steps, ticks, key presses and releases,
framebuffer reads and random bytes the block stands where it stood, and the next step answers the same error with the same
information. The checks read none of what those operations write. That a failed step writes nothing, so that a host which only
steps sees the same error again (U10), is the spec's own decision D3 (log entry 5). -/
def Obligations.ErrorPersistsUntilTheHostLoads : Prop :=
  ∀ (s : State) (e : Fault) (ps : List Port), step s = .fault e → (∀ image, Port.load image ∉ ps) →
    step (runPorts ps s) = .fault e ∧ KeepsRegsBut [] s (runPorts ps s) ∧
    KeepsBut [.DT, .ST, .key, .random] s (runPorts ps s)

/-! ## Frames -/

/-- Frame of RET, JP, CALL, the register skips and JP V0: no register, no byte of memory; only CALL and RET touch the stack. -/
def Obligations.ControlFlowFrame : Prop :=
  ∀ (i : Instr) (s t : State), family i = .control → exec i s = .next t → Frame i s t

/-- Frame of the register and ALU instructions: V[x], and VF for those that define a flag; the random byte for CXNN. -/
def Obligations.AluFrame : Prop :=
  ∀ (i : Instr) (s t : State), family i = .alu → exec i s = .next t → Frame i s t

/-- Frame of the index and memory instructions: ANNN, FX1E and FX29 write I; FX33 and FX55 write their span at `I` and
not I; FX65 writes V0..V[x] and no byte. -/
def Obligations.IndexMemoryFrame : Prop :=
  ∀ (i : Instr) (s t : State), family i = .index → exec i s = .next t → Frame i s t

/-- Frame of CLS and DRW: the framebuffer, and VF for DRW. -/
def Obligations.DisplayFrame : Prop :=
  ∀ (i : Instr) (s t : State), family i = .display → exec i s = .next t → Frame i s t

/-- Frame of the key and timer instructions: no latch, no byte of memory, VF not as a flag. -/
def Obligations.KeyTimerFrame : Prop :=
  ∀ (i : Instr) (s t : State), family i = .keys → exec i s = .next t → Frame i s t

/-- Every flag value is 0 or 1, and carry and no-borrow are the predicates named (42_alu.md). That the flag is what VF holds
in the end, with x = F too, is the spec's own decision D9 (log entry 11); which way the borrow of 8XY7 is read is an inference
the spec marks as its own (R142); the flag of DXYN with n = 0 is its decision D12 (log entry 15). -/
def Obligations.FlagsAreZeroOrOne : Prop :=
  (∀ (i : Instr) (s t : State), writesFlag i = true → exec i s = .next t → t.getV VF = 0 ∨ t.getV VF = 1) ∧
  (∀ (x y : Reg) (s t : State), exec (.addReg x y) s = .next t →
    t.getV VF = if (s.getV x).toNat + (s.getV y).toNat > 255 then 1 else 0) ∧
  (∀ (x y : Reg) (s t : State), exec (.subReg x y) s = .next t →
    t.getV VF = if (s.getV x).toNat ≥ (s.getV y).toNat then 1 else 0) ∧
  (∀ (x y : Reg) (s t : State), exec (.subnReg x y) s = .next t →
    t.getV VF = if (s.getV y).toNat ≥ (s.getV x).toNat then 1 else 0)

/-! ## Control flow -/

/-- 1NNN sets pc to NNN (41_control_flow.md). That the fetch after a jump to 0xFFF is AddressOutOfRange is the spec's own
decision D1 (log entry 6). -/
def Obligations.JumpSetsPc : Prop :=
  ∀ (s : State) (nnn : Addr), HasRow (.jp nnn) 0x1000#16 0xF000#16 ∧ ∃ t, exec (.jp nnn) s = .next t ∧ t.pc.toNat = nnn.toNat ∧
    (s.run = .running → nnn = 0xFFF → step t = .fault (.addressOutOfRange 0xFFF)) ∧
    KeepsRegsBut [] s t ∧ KeepsBut [.pc] s t

/-- R222, R223: 2NNN stops with StackOverflow exactly when SP = 16, 00EE with StackUnderflow exactly when SP = 0. -/
def Obligations.StackErrorsExactlyWhen : Prop :=
  ∀ (s : State) (nnn : Addr),
    (exec (.call nnn) s = .fault .stackOverflow ↔ s.SP.val = 16) ∧
    (exec .ret s = .fault .stackUnderflow ↔ s.SP.val = 0)

/-- The spec's own decision D5: 2NNN pushes its own address (12 bits) and jumps; the other entries stay. -/
def Obligations.CallPushesItsOwnAddress : Prop :=
  ∀ (s : State) (nnn : Addr), s.SP.val < 16 → s.pc.toNat ≤ 0xFFE →
    ∃ t, exec (.call nnn) s = .next t ∧ t.SP.val = s.SP.val + 1 ∧ t.pc.toNat = nnn.toNat ∧
      ∀ k : Fin 16, (t.stack[k.val]).toNat = if k.val = s.SP.val then s.pc.toNat else (s.stack[k.val]).toNat

/-- The spec's own decisions D5 and D6: 00EE goes to the popped entry plus 2 and clears no entry. -/
def Obligations.ReturnGoesPastThePoppedAddress : Prop :=
  ∀ (s : State) (k : Fin 16), s.SP.val = k.val + 1 →
    ∃ t, exec .ret s = .next t ∧ t.SP.val = k.val ∧ t.pc.toNat = (s.stack[k.val]).toNat + 2 ∧ t.stack = s.stack

/-- 95_test_vectors.md S6: a call, then at once a return, leaves pc after the call and SP as before it (C4, D5). -/
def Obligations.CallThenReturnRoundTrip : Prop :=
  ∀ (s : State) (nnn : Addr), CanFetch s → s.SP.val < 16 → nnn.toNat ≤ 0xFFE →
    decodeWord (wordAt s s.pc.toNat) = some (.call nnn) → decodeWord (wordAt s nnn.toNat) = some .ret →
    ∃ t u, step s = .next t ∧ step t = .next u ∧ u.pc.toNat = s.pc.toNat + 2 ∧ u.SP = s.SP ∧
      KeepsRegsBut [] s u ∧ KeepsBut [.pc, .stack] s u

/-- R113 to R116: the four register skips, pc 4 further when the condition holds and 2 otherwise; they write nothing else. -/
def Obligations.RegisterSkips : Prop :=
  ∀ (s : State) (x y : Reg) (nn : Byte),
    HasRow (.seImm x nn) 0x3000#16 0xF000#16 ∧ HasRow (.sneImm x nn) 0x4000#16 0xF000#16 ∧
    HasRow (.seReg x y) 0x5000#16 0xF00F#16 ∧ HasRow (.sneReg x y) 0x9000#16 0xF00F#16 ∧
    (∃ t, exec (.seImm x nn) s = .next t ∧ t.pc = (if (s.getV x).toNat = nn.toNat then s.pc + 4 else s.pc + 2) ∧
      KeepsRegsBut [] s t ∧ KeepsBut [.pc] s t) ∧
    (∃ t, exec (.sneImm x nn) s = .next t ∧ t.pc = (if (s.getV x).toNat = nn.toNat then s.pc + 2 else s.pc + 4) ∧
      KeepsRegsBut [] s t ∧ KeepsBut [.pc] s t) ∧
    (∃ t, exec (.seReg x y) s = .next t ∧
      t.pc = (if (s.getV x).toNat = (s.getV y).toNat then s.pc + 4 else s.pc + 2) ∧
      KeepsRegsBut [] s t ∧ KeepsBut [.pc] s t) ∧
    (∃ t, exec (.sneReg x y) s = .next t ∧
      t.pc = (if (s.getV x).toNat = (s.getV y).toNat then s.pc + 2 else s.pc + 4) ∧
      KeepsRegsBut [] s t ∧ KeepsBut [.pc] s t)

/-- The spec's own decision D7: BNNN goes to nnn + V0, or stops with AddressOutOfRange above 0xFFF. -/
def Obligations.JumpWithOffset : Prop :=
  ∀ (s : State) (nnn : Addr),
    (nnn.toNat + (s.getV 0).toNat ≤ 0xFFF →
      ∃ t, exec (.jpV0 nnn) s = .next t ∧ t.pc.toNat = nnn.toNat + (s.getV 0).toNat) ∧
    (nnn.toNat + (s.getV 0).toNat > 0xFFF →
      exec (.jpV0 nnn) s = .fault (.addressOutOfRange (nnn.toNat + (s.getV 0).toNat)))

/-! ## Register and ALU -/

/-- R133, R135: 6XNN and 8XY0 put the immediate and V[y] in V[x]; VF changes only as the destination. -/
def Obligations.LoadAndCopy : Prop :=
  ∀ (s : State) (x y : Reg) (nn : Byte),
    HasRow (.ldImm x nn) 0x6000#16 0xF000#16 ∧ HasRow (.ldReg x y) 0x8000#16 0xF00F#16 ∧
    (∃ t, exec (.ldImm x nn) s = .next t ∧ t.getV x = nn ∧ t.pc = s.pc + 2 ∧ KeepsRegsBut [x] s t) ∧
    (∃ t, exec (.ldReg x y) s = .next t ∧ t.getV x = s.getV y ∧ t.pc = s.pc + 2 ∧ KeepsRegsBut [x] s t)

/-- R134: 7XNN adds modulo 256 and records no carry. -/
def Obligations.AddImmediateWraps : Prop :=
  ∀ (s : State) (x : Reg) (nn : Byte),
    HasRow (.addImm x nn) 0x7000#16 0xF000#16 ∧
    ∃ t, exec (.addImm x nn) s = .next t ∧ (t.getV x).toNat = ((s.getV x).toNat + nn.toNat) % 256 ∧
      t.pc = s.pc + 2 ∧ KeepsRegsBut [x] s t

/-- 8XY1, 8XY2, 8XY3 bit by bit; that VF is not reset is the spec's own decision D10. -/
def Obligations.LogicLeavesTheFlag : Prop :=
  ∀ (s : State) (x y : Reg),
    (∃ t, exec (.orReg x y) s = .next t ∧ t.pc = s.pc + 2 ∧ KeepsRegsBut [x] s t ∧
      ∀ b : Fin 8, (t.getV x).getLsbD b = ((s.getV x).getLsbD b || (s.getV y).getLsbD b)) ∧
    (∃ t, exec (.andReg x y) s = .next t ∧ t.pc = s.pc + 2 ∧ KeepsRegsBut [x] s t ∧
      ∀ b : Fin 8, (t.getV x).getLsbD b = ((s.getV x).getLsbD b && (s.getV y).getLsbD b)) ∧
    (∃ t, exec (.xorReg x y) s = .next t ∧ t.pc = s.pc + 2 ∧ KeepsRegsBut [x] s t ∧
      ∀ b : Fin 8, (t.getV x).getLsbD b = ((s.getV x).getLsbD b ^^ (s.getV y).getLsbD b))

/-- 8XY4, the sum modulo 256 and the carry (42_alu.md). That VF ends as the flag with x = F too is the spec's own decision D9
(log entry 11). -/
def Obligations.AddSetsCarry : Prop :=
  ∀ (s : State) (x y : Reg),
    HasRow (.addReg x y) 0x8004#16 0xF00F#16 ∧
    ∃ t, exec (.addReg x y) s = .next t ∧ t.pc = s.pc + 2 ∧ KeepsRegsBut [x, VF] s t ∧
      (x ≠ VF → (t.getV x).toNat = ((s.getV x).toNat + (s.getV y).toNat) % 256) ∧
      (t.getV VF).toNat = ((s.getV x).toNat + (s.getV y).toNat) / 256

/-- 8XY5, V[x] - V[y] modulo 256 and VF = 1 if no borrow (42_alu.md). That VF ends as the flag with x = F too is the spec's
own decision D9 (log entry 11). -/
def Obligations.SubtractSetsNoBorrow : Prop :=
  ∀ (s : State) (x y : Reg),
    HasRow (.subReg x y) 0x8005#16 0xF00F#16 ∧
    ∃ t, exec (.subReg x y) s = .next t ∧ t.pc = s.pc + 2 ∧ KeepsRegsBut [x, VF] s t ∧
      (x ≠ VF → (t.getV x).toNat = ((s.getV x).toNat + 256 - (s.getV y).toNat) % 256) ∧
      t.getV VF = if (s.getV x).toNat ≥ (s.getV y).toNat then 1 else 0

/-- 8XY7, V[y] - V[x] modulo 256; which way the borrow is read is an inference the spec marks as its own (R142). That VF ends
as the flag with x = F too is the spec's own decision D9 (log entry 11). -/
def Obligations.ReverseSubtractSetsNoBorrow : Prop :=
  ∀ (s : State) (x y : Reg),
    ∃ t, exec (.subnReg x y) s = .next t ∧ t.pc = s.pc + 2 ∧ KeepsRegsBut [x, VF] s t ∧
      (x ≠ VF → (t.getV x).toNat = ((s.getV y).toNat + 256 - (s.getV x).toNat) % 256) ∧
      t.getV VF = if (s.getV y).toNat ≥ (s.getV x).toNat then 1 else 0

/-- 8XY6 halves V[x] and VF is its old bit 0; V[y] is not read, so the y field makes no difference (42_alu.md). That VF ends
as the flag with x = F too is the spec's own decision D9 (log entry 11), against the order of the source's row (C8). -/
def Obligations.ShiftRightDropsBitZero : Prop :=
  ∀ (s : State) (x y : Reg),
    HasRow (.shr x y) 0x8006#16 0xF00F#16 ∧
    ∃ t, exec (.shr x y) s = .next t ∧ t.pc = s.pc + 2 ∧ KeepsRegsBut [x, VF] s t ∧
      (x ≠ VF → (t.getV x).toNat = (s.getV x).toNat / 2) ∧ (t.getV VF).toNat = (s.getV x).toNat % 2 ∧
      ∀ y' : Reg, exec (.shr x y') s = .next t

/-- 8XYE doubles V[x] modulo 256 and VF is its old bit 7 as 0 or 1; V[y] is not read (42_alu.md). That VF ends as the flag
with x = F too is the spec's own decision D9 (log entry 11), against the order of the source's row (C8). -/
def Obligations.ShiftLeftDropsBitSeven : Prop :=
  ∀ (s : State) (x y : Reg),
    HasRow (.shl x y) 0x800E#16 0xF00F#16 ∧
    ∃ t, exec (.shl x y) s = .next t ∧ t.pc = s.pc + 2 ∧ KeepsRegsBut [x, VF] s t ∧
      (x ≠ VF → (t.getV x).toNat = 2 * (s.getV x).toNat % 256) ∧ (t.getV VF).toNat = (s.getV x).toNat / 128 ∧
      ∀ y' : Reg, exec (.shl x y') s = .next t

/-- CXNN: whatever byte the host supplies, V[x] is that byte AND nn and the byte is consumed; where it has supplied none,
some byte is drawn, the counter moves, and nn = 0 still gives 0. How the byte reaches the step is the model's choice
(log entry 1, the spec's D19). -/
def Obligations.RandomByteIsMasked : Prop :=
  ∀ (s : State) (x : Reg) (nn : Byte),
    (∀ (r : Byte) (rs : List Byte), s.draws = r :: rs →
      ∃ t, exec (.rnd x nn) s = .next t ∧ (∀ b : Fin 8, (t.getV x).getLsbD b = (r.getLsbD b && nn.getLsbD b)) ∧
        t.draws = rs ∧ t.drawIndex = s.drawIndex ∧ t.pc = s.pc + 2) ∧
    (s.draws = [] →
      ∃ (t : State) (r : Byte), exec (.rnd x nn) s = .next t ∧ (∀ b : Fin 8, (t.getV x).getLsbD b = (r.getLsbD b && nn.getLsbD b)) ∧
        (nn = 0 → t.getV x = 0) ∧ t.draws = [] ∧ t.drawIndex = s.drawIndex + 1 ∧ t.pc = s.pc + 2)

/-! ## Index and memory -/

/-- R162: ANNN sets I to NNN. -/
def Obligations.LoadIndex : Prop :=
  ∀ (s : State) (nnn : Addr),
    HasRow (.ldI nnn) 0xA000#16 0xF000#16 ∧
    ∃ t, exec (.ldI nnn) s = .next t ∧ t.I.toNat = nnn.toNat ∧ t.pc = s.pc + 2 ∧ KeepsRegsBut [] s t

/-- The spec's own decision D8: FX1E adds V[x] to I, or stops with AddressOutOfRange above 0xFFF; VF is not written. -/
def Obligations.AddToIndex : Prop :=
  ∀ (s : State) (x : Reg),
    (s.I.toNat + (s.getV x).toNat ≤ 0xFFF →
      ∃ t, exec (.addI x) s = .next t ∧ t.I.toNat = s.I.toNat + (s.getV x).toNat ∧ t.pc = s.pc + 2 ∧
        KeepsRegsBut [] s t) ∧
    (s.I.toNat + (s.getV x).toNat > 0xFFF →
      exec (.addI x) s = .fault (.addressOutOfRange (s.I.toNat + (s.getV x).toNat)))

/-- FX29 sets I to the address of the glyph of digit V[x], and stops on a value above 15. It is said of the parameter
FONT_BASE, as D16 asks; the parameter's value and the error are the spec's own decisions D16 and D15 (log entries 2 and
13). -/
def Obligations.GlyphAddressOfDigit : Prop :=
  ∀ (s : State) (x : Reg),
    ((s.getV x).toNat ≤ 15 →
      ∃ t, exec (.ldF x) s = .next t ∧ t.I.toNat = fontBase + 5 * (s.getV x).toNat ∧ t.pc = s.pc + 2) ∧
    ((s.getV x).toNat > 15 → exec (.ldF x) s = .fault (.operandOutOfRange (s.getV x)))

/-- FX33 stores the three decimal digits of V[x] at I, I+1, I+2, hundreds first, and stops when I > 0xFFD
(43_index_memory.md). That the error records I + 2 is the spec's own decision D13 (log entry 15); that I is unchanged is log
entry 14. -/
def Obligations.BcdStoresThreeDigits : Prop :=
  ∀ (s : State) (x : Reg),
    HasRow (.ldB x) 0xF033#16 0xF0FF#16 ∧
    (s.I.toNat ≤ 0xFFD →
      ∃ t, exec (.ldB x) s = .next t ∧
        100 * (t.readByte s.I.toNat).toNat + 10 * (t.readByte (s.I.toNat + 1)).toNat +
          (t.readByte (s.I.toNat + 2)).toNat = (s.getV x).toNat ∧
        (t.readByte (s.I.toNat + 1)).toNat ≤ 9 ∧ (t.readByte (s.I.toNat + 2)).toNat ≤ 9 ∧
        KeepsBytesOutside (indexBase s) 3 s t ∧ t.I = s.I ∧ t.pc = s.pc + 2 ∧ KeepsRegsBut [] s t) ∧
    (s.I.toNat > 0xFFD → exec (.ldB x) s = .fault (.addressOutOfRange (s.I.toNat + 2)))

/-- FX55 stores V0..V[x] at I..I+x and changes no other byte, or stops with the span's highest address and nothing
written. That I is unchanged is the spec's own decision D11. -/
def Obligations.RegisterDump : Prop :=
  ∀ (s : State) (x : Reg),
    (s.I.toNat + x.toNat ≤ 0xFFF →
      ∃ t, exec (.storeRegs x) s = .next t ∧
        (∀ r : Reg, r.toNat ≤ x.toNat → t.readByte (s.I.toNat + r.toNat) = s.getV r) ∧
        KeepsBytesOutside (indexBase s) (x.toNat + 1) s t ∧ t.I = s.I ∧ t.pc = s.pc + 2) ∧
    (s.I.toNat + x.toNat > 0xFFF → exec (.storeRegs x) s = .fault (.addressOutOfRange (s.I.toNat + x.toNat)))

/-- FX65 loads V0..V[x] from I..I+x and leaves the registers above x, or stops with the span's highest address. That I is
unchanged is the spec's own decision D11. -/
def Obligations.RegisterLoad : Prop :=
  ∀ (s : State) (x : Reg),
    (s.I.toNat + x.toNat ≤ 0xFFF →
      ∃ t, exec (.loadRegs x) s = .next t ∧
        (∀ r : Reg, t.getV r = if r.toNat ≤ x.toNat then s.readByte (s.I.toNat + r.toNat) else s.getV r) ∧
        t.I = s.I ∧ t.pc = s.pc + 2) ∧
    (s.I.toNat + x.toNat > 0xFFF → exec (.loadRegs x) s = .fault (.addressOutOfRange (s.I.toNat + x.toNat)))

/-! ## Display -/

/-- R181: 00E0 turns every cell off, whatever was drawn; VF is not written. -/
def Obligations.ClearTurnsEveryCellOff : Prop :=
  ∀ s : State, HasRow .cls 0x00E0#16 0xFFFF#16 ∧ ∃ t, exec .cls s = .next t ∧ (∀ px py, readFramebuffer px py t = false) ∧ t.pc = s.pc + 2 ∧
    KeepsRegsBut [] s t

/-- R182, R183: DXYN XORs every sprite pixel into its cell, wrapped, and VF is 1 exactly when some sprite pixel was on
before the draw. This closed form of the blitter's loop rests on what the spec derives in R183 and, for n = 0, on D12. -/
def Obligations.DrawXorsTheSprite : Prop :=
  ∀ (s : State) (x y : Reg) (n : BitVec 4), n.toNat = 0 ∨ s.I.toNat + n.toNat ≤ 0x1000 →
    ∃ t, exec (.drw x y n) s = .next t ∧ t.pc = s.pc + 2 ∧
      (∀ px py, readFramebuffer px py t = (readFramebuffer px py s ^^ spritePixel x y n s px py)) ∧
      ((∃ px py, spritePixel x y n s px py = true ∧ readFramebuffer px py s = true) → t.getV VF = 1) ∧
      ((¬∃ px py, spritePixel x y n s px py = true ∧ readFramebuffer px py s = true) → t.getV VF = 0)

/-- R184: the same draw twice in succession restores the framebuffer, and the second draw's VF is 1 exactly when the first
turned some pixel on. The spec derives it; x = F or y = F is outside it (the first flag moves the second coordinate). -/
def Obligations.DrawTwiceRestoresTheScreen : Prop :=
  ∀ (s : State) (x y : Reg) (n : BitVec 4), x ≠ VF → y ≠ VF → n.toNat = 0 ∨ s.I.toNat + n.toNat ≤ 0x1000 →
    ∃ t u, exec (.drw x y n) s = .next t ∧ exec (.drw x y n) t = .next u ∧ u.fb = s.fb ∧
      (u.getV VF = 1 ↔ ∃ px py, readFramebuffer px py s = false ∧ readFramebuffer px py t = true)

/-! ## Keys and timers -/

/-- EX9E and EXA1 skip on the latch of key V[x]; above 15 they stop, the spec's own decision D14. -/
def Obligations.KeySkips : Prop :=
  ∀ (s : State) (x : Reg),
    (∀ k : Key, (s.getV x).toNat = k.toNat →
      (∃ t, exec (.skp x) s = .next t ∧ t.pc = (if s.getKey k then s.pc + 4 else s.pc + 2)) ∧
      (∃ t, exec (.sknp x) s = .next t ∧ t.pc = (if s.getKey k then s.pc + 2 else s.pc + 4))) ∧
    ((s.getV x).toNat > 15 →
      exec (.skp x) s = .fault (.operandOutOfRange (s.getV x)) ∧
      exec (.sknp x) s = .fault (.operandOutOfRange (s.getV x)))

/-- R202, R204, R205: FX07 reads DT into V[x], FX15 and FX18 set DT and ST from V[x]. -/
def Obligations.TimerReadAndWrites : Prop :=
  ∀ (s : State) (x : Reg),
    HasRow (.ldVxDT x) 0xF007#16 0xF0FF#16 ∧ HasRow (.ldDTVx x) 0xF015#16 0xF0FF#16 ∧ HasRow (.ldSTVx x) 0xF018#16 0xF0FF#16 ∧
    (∃ t, exec (.ldVxDT x) s = .next t ∧ t.getV x = s.DT ∧ t.pc = s.pc + 2 ∧ KeepsRegsBut [x] s t ∧
      KeepsBut [.pc] s t) ∧
    (∃ t, exec (.ldDTVx x) s = .next t ∧ t.DT = s.getV x ∧ t.pc = s.pc + 2 ∧ KeepsRegsBut [] s t ∧
      KeepsBut [.pc, .DT] s t) ∧
    (∃ t, exec (.ldSTVx x) s = .next t ∧ t.ST = s.getV x ∧ t.pc = s.pc + 2 ∧ KeepsRegsBut [] s t ∧
      KeepsBut [.pc, .ST] s t)

/-- FX0A, its own effect: AwaitingKey(x, none), pc not advanced, nothing else (the spec's own decision D17). -/
def Obligations.WaitForKeyEntersTheSubState : Prop :=
  ∀ (s : State) (x : Reg), ∃ t, exec (.ldVxK x) s = .next t ∧ t.run = .awaitingKey x none ∧ t.awaiting = true ∧
    KeepsRegsBut [] s t ∧ KeepsBut [.run] s t

/-- FX0A from end to end: it idles until a released key is pressed, and the next step then writes the key and goes on
(the spec's own decision D17). -/
def Obligations.KeyPressEndsTheWait : Prop :=
  ∀ (s : State) (x : Reg) (k : Key), CanFetch s → decodeWord (wordAt s s.pc.toNat) = some (.ldVxK x) →
    s.getKey k = false →
    ∃ t u, step s = .next t ∧ step t = .next t ∧ step (pressKey k t) = .next u ∧
      (u.getV x).toNat = k.toNat ∧ u.pc = s.pc + 2 ∧ u.run = .running ∧ u.getKey k = true ∧
      KeepsRegsBut [x] s u ∧ KeepsBut [.pc, .key] s u

/-! ## Host ports -/

/-- R242: a tick takes 1 from each timer, down to 0, and changes nothing else. At what rate ticks come is left free (D28). -/
def Obligations.TickCountsDownToZero : Prop :=
  ∀ s : State, (tickTimers s).DT.toNat = s.DT.toNat - 1 ∧ (tickTimers s).ST.toNat = s.ST.toNat - 1 ∧
    KeepsRegsBut [] s (tickTimers s) ∧ KeepsBut [.DT, .ST] s (tickTimers s)

/-- R243, R244: a press sets its latch and latches the wait only as a transition and only first; a release clears its latch
and not the wait. That a held key and a second press do not count is the spec's own decision D17. -/
def Obligations.KeyPressAndRelease : Prop :=
  ∀ (s : State) (k : Key),
    (∀ j, (pressKey k s).getKey j = if j = k then true else s.getKey j) ∧
    (∀ x, s.run = .awaitingKey x none → s.getKey k = false → (pressKey k s).run = .awaitingKey x (some k)) ∧
    (s.getKey k = true → pressKey k s = s) ∧
    (∀ x l, s.run = .awaitingKey x (some l) → (pressKey k s).run = s.run) ∧
    (s.run = .running → (pressKey k s).run = .running) ∧
    (∀ j, (releaseKey k s).getKey j = if j = k then false else s.getKey j) ∧
    KeepsRegsBut [] s (pressKey k s) ∧ KeepsBut [.key, .run] s (pressKey k s) ∧
    KeepsRegsBut [] s (releaseKey k s) ∧ KeepsBut [.key] s (releaseKey k s)

/-- R262: load copies the image to 0x200.. and writes no other component, or stops with ProgramTooLarge above 3584 bytes.
That bytes above the image keep their values is the spec's own decision D25. -/
def Obligations.LoadProgramCopiesTheImage : Prop :=
  ∀ (s : State) (image : List Byte),
    (image.length ≤ 3584 →
      ∃ t, loadProgram image s = .next t ∧
        (∀ (j : Nat) (h : j < image.length), t.readByte (0x200 + j) = image[j]) ∧
        KeepsBytesOutside 0x200 image.length s t ∧ KeepsRegsBut [] s t ∧ KeepsBut [.memory] s t) ∧
    (image.length > 3584 → loadProgram image s = .fault (.programTooLarge image.length))

/-! ## Reset, invariants, isolation -/

/-- What creation leaves (R35): all zero but pc = 0x200 and the font, FONT_DATA at FONT_BASE. The values of those two
parameters are the spec's own decision D16 (log entry 2), `run` its decision D17. -/
def Obligations.CreationValues : Prop :=
  (∀ r, State.reset.getV r = 0) ∧ State.reset.I = 0 ∧ State.reset.pc = 0x200 ∧ State.reset.SP.val = 0 ∧
  (∀ k : Fin 16, State.reset.stack[k.val] = 0) ∧ State.reset.DT = 0 ∧ State.reset.ST = 0 ∧
  (∀ k, State.reset.getKey k = false) ∧ (∀ px py, readFramebuffer px py State.reset = false) ∧
  State.reset.run = .running ∧
  fontBase + 0x4F ≤ 0x1FF ∧
  (∀ a, a < fontBase ∨ fontBase + 80 ≤ a → State.reset.readByte a = 0) ∧
  ((List.range 80).map (fun j => State.reset.readByte (fontBase + j)) = fontData)

/-- The invariant holds after creation (R25, R26, R27, R35). -/
def Obligations.CreationHasTheInvariant : Prop := State.reset.Inv

/-- From every state with the invariant a step gives one: I stays at most 0xFFF (R25), pc at most 0x1002 (R26), pushed
addresses are fetchable (R27), memory keeps its canonical form inside 0x000..0xFFF (R50). The spec derives these bounds. -/
def Obligations.StepKeepsTheInvariant : Prop :=
  ∀ s t : State, s.Inv → step s = .next t → t.Inv

/-- Every host schedule from a state with the invariant leaves one, errors and all (R241, D28: the interleaving is free). -/
def Obligations.EveryScheduleKeepsTheInvariant : Prop :=
  ∀ (ps : List Port) (s : State), s.Inv → (runPorts ps s).Inv

/-- Stale stack entries (at or above SP) are never observable (R27, R32): two states that differ only there answer the same
errors, and next states that differ only there. -/
def Obligations.StaleStackEntriesAreInvisible : Prop :=
  ∀ s s' : State, SameButStaleEntries s s' →
    (∀ e, step s = .fault e → step s' = .fault e) ∧
    (∀ t, step s = .next t → ∃ t', step s' = .next t' ∧ SameButStaleEntries t t')

/-- No instruction reads ST (R28): a step from states that differ only in ST answers the same error, or next states that
differ at most in ST. -/
def Obligations.SoundTimerIsNeverRead : Prop :=
  ∀ (s : State) (v : Byte),
    (∀ e, step s = .fault e → step (s.setST v) = .fault e) ∧
    (∀ t, step s = .next t → ∃ t', step (s.setST v) = .next t' ∧ t'.setST 0 = t.setST 0)
end

