-- ==== Sys2Proof/Laws/Decode.lean ====
section
/-! SUPPORT. The fields of an encoded word (30_encoding.md R71, R72): what each field reads of each format. -/

namespace Sys2Proof

/-- `a ++ b` as a number: `a` in the high bits (R9). -/
theorem toNat_concat {n m : Nat} (a : BitVec n) (b : BitVec m) : (a ++ b).toNat = a.toNat * 2 ^ m + b.toNat := by
  rw [BitVec.toNat_append, ← Nat.shiftLeft_add_eq_or_of_lt b.isLt, Nat.shiftLeft_eq]

section
variable (op x y sub : BitVec 4) (nn : Byte) (nnn : Addr)

theorem toNat_encodeXY :
    (encodeXY op x y sub).toNat = op.toNat * 4096 + x.toNat * 256 + y.toNat * 16 + sub.toNat := by
  have h : (encodeXY op x y sub).toNat = _ := toNat_concat (op ++ x ++ y) sub
  rw [h, toNat_concat, toNat_concat]; omega

theorem toNat_encodeXNN : (encodeXNN op x nn).toNat = op.toNat * 4096 + x.toNat * 256 + nn.toNat := by
  have h : (encodeXNN op x nn).toNat = _ := toNat_concat (op ++ x) nn
  rw [h, toNat_concat]; omega

theorem toNat_encodeNNN : (encodeNNN op nnn).toNat = op.toNat * 4096 + nnn.toNat := by
  have h : (encodeNNN op nnn).toNat = _ := toNat_concat op nnn
  rw [h]; omega

end

section
variable (w : Word)

theorem toNat_fieldOp : (fieldOp w).toNat = w.toNat / 4096 := by
  have := w.isLt; simp [fieldOp, Nat.shiftRight_eq_div_pow]; omega
theorem toNat_fieldX : (fieldX w).toNat = w.toNat / 256 % 16 := by simp [fieldX, Nat.shiftRight_eq_div_pow]
theorem toNat_fieldY : (fieldY w).toNat = w.toNat / 16 % 16 := by simp [fieldY, Nat.shiftRight_eq_div_pow]
theorem toNat_fieldN : (fieldN w).toNat = w.toNat % 16 := by simp [fieldN]
theorem toNat_fieldNN : (fieldNN w).toNat = w.toNat % 256 := by simp [fieldNN]
theorem toNat_fieldNNN : (fieldNNN w).toNat = w.toNat % 4096 := by simp [fieldNNN]

/-- The bytes of a word put together again, high byte first (R53). -/
@[simp] theorem wordOfBytes_split : wordOfBytes (highByte w) (lowByte w) = w := by
  apply BitVec.eq_of_toNat_eq
  have h : (wordOfBytes (highByte w) (lowByte w)).toNat = _ := toNat_concat (highByte w) (lowByte w)
  have := w.isLt
  rw [h]; simp [highByte, lowByte, Nat.shiftRight_eq_div_pow]; omega

end

section
variable (op x y sub : BitVec 4) (nn : Byte) (nnn : Addr)

@[simp] theorem fieldOp_encodeXY : fieldOp (encodeXY op x y sub) = op := by
  apply BitVec.eq_of_toNat_eq; rw [toNat_fieldOp, toNat_encodeXY]; omega
@[simp] theorem fieldX_encodeXY : fieldX (encodeXY op x y sub) = x := by
  apply BitVec.eq_of_toNat_eq; rw [toNat_fieldX, toNat_encodeXY]; omega
@[simp] theorem fieldY_encodeXY : fieldY (encodeXY op x y sub) = y := by
  apply BitVec.eq_of_toNat_eq; rw [toNat_fieldY, toNat_encodeXY]; omega
@[simp] theorem fieldN_encodeXY : fieldN (encodeXY op x y sub) = sub := by
  apply BitVec.eq_of_toNat_eq; rw [toNat_fieldN, toNat_encodeXY]; omega
@[simp] theorem fieldOp_encodeXNN : fieldOp (encodeXNN op x nn) = op := by
  apply BitVec.eq_of_toNat_eq; rw [toNat_fieldOp, toNat_encodeXNN]; omega
@[simp] theorem fieldX_encodeXNN : fieldX (encodeXNN op x nn) = x := by
  apply BitVec.eq_of_toNat_eq; rw [toNat_fieldX, toNat_encodeXNN]; omega
@[simp] theorem fieldNN_encodeXNN : fieldNN (encodeXNN op x nn) = nn := by
  apply BitVec.eq_of_toNat_eq; rw [toNat_fieldNN, toNat_encodeXNN]; omega
@[simp] theorem fieldOp_encodeNNN : fieldOp (encodeNNN op nnn) = op := by
  apply BitVec.eq_of_toNat_eq; rw [toNat_fieldOp, toNat_encodeNNN]; omega
@[simp] theorem fieldNNN_encodeNNN : fieldNNN (encodeNNN op nnn) = nnn := by
  apply BitVec.eq_of_toNat_eq; rw [toNat_fieldNNN, toNat_encodeNNN]; omega

end

/-! ## The masks of R74 act on each field of a format -/

theorem and_nibbleOnes (a : BitVec 4) : a &&& 15#4 = a := BitVec.and_allOnes
theorem and_byteOnes (a : Byte) : a &&& 255#8 = a := BitVec.and_allOnes

section
variable (op x y sub op' x' y' sub' : BitVec 4) (nn nn' : Byte) (nnn nnn' : Addr)

theorem and_encodeXY : encodeXY op x y sub &&& encodeXY op' x' y' sub' =
    encodeXY (op &&& op') (x &&& x') (y &&& y') (sub &&& sub') := by
  have h : (op ++ x ++ y ++ sub) &&& (op' ++ x' ++ y' ++ sub') =
      (op &&& op') ++ (x &&& x') ++ (y &&& y') ++ (sub &&& sub') := by simp only [BitVec.and_append]
  exact h

theorem and_encodeXNN : encodeXNN op x nn &&& encodeXNN op' x' nn' =
    encodeXNN (op &&& op') (x &&& x') (nn &&& nn') := by
  have h : (op ++ x ++ nn) &&& (op' ++ x' ++ nn') = (op &&& op') ++ (x &&& x') ++ (nn &&& nn') := by
    simp only [BitVec.and_append]
  exact h

theorem and_encodeNNN : encodeNNN op nnn &&& encodeNNN op' nnn' = encodeNNN (op &&& op') (nnn &&& nnn') := by
  have h : (op ++ nnn) &&& (op' ++ nnn') = (op &&& op') ++ (nnn &&& nnn') := by simp only [BitVec.and_append]
  exact h

/-- A word of format XY matches a row that fixes `op` and the low nibble. -/
theorem encodeXY_mask : encodeXY op x y sub &&& 0xF00F#16 = encodeXY op 0 0 sub := by
  have h : (0xF00F#16) = encodeXY 0xF 0 0 0xF := by decide
  rw [h, and_encodeXY]; simp [and_nibbleOnes]

/-- A word of format XYN matches a row that fixes `op`. -/
theorem encodeXYN_mask : encodeXY op x y sub &&& 0xF000#16 = encodeXY op 0 0 0 := by
  have h : (0xF000#16) = encodeXY 0xF 0 0 0 := by decide
  rw [h, and_encodeXY]; simp [and_nibbleOnes]

/-- A word of format X matches a row that fixes `op` and the low byte. -/
theorem encodeX_mask : encodeXNN op x nn &&& 0xF0FF#16 = encodeXNN op 0 nn := by
  have h : (0xF0FF#16) = encodeXNN 0xF 0 0xFF := by decide
  rw [h, and_encodeXNN]; simp [and_nibbleOnes, and_byteOnes]

/-- A word of format XNN matches a row that fixes `op`. -/
theorem encodeXNN_mask : encodeXNN op x nn &&& 0xF000#16 = encodeXNN op 0 0 := by
  have h : (0xF000#16) = encodeXNN 0xF 0 0 := by decide
  rw [h, and_encodeXNN]; simp [and_nibbleOnes]

/-- A word of format NNN matches a row that fixes `op`. -/
theorem encodeNNN_mask : encodeNNN op nnn &&& 0xF000#16 = encodeNNN op 0 := by
  have h : (0xF000#16) = encodeNNN 0xF 0 := by decide
  rw [h, and_encodeNNN]; simp [and_nibbleOnes]

end

/-- The decoder over bytes reads its first two bytes as a word, high byte first (R53). -/
theorem decode_cons (hi lo : Byte) (rest : List Byte) : decode (hi :: lo :: rest) =
    match decodeWord (wordOfBytes hi lo) with
    | some i => .instr i rest
    | none => .invalidOpcode (wordOfBytes hi lo) := rfl

/-- What the host's table word decodes to is what its 16-bit word decodes to. -/
theorem decodeTableWord_eq (nbits w : Nat) : decodeTableWord nbits w = decodeWord (tableWord nbits w) := by
  unfold decodeTableWord
  rw [decode_cons, wordOfBytes_split]
  cases decodeWord (tableWord nbits w) <;> rfl

end Sys2Proof
end

