-- ==== Sys2Proof/Laws/State.lean ====
section
/-! SUPPORT. What each named operation makes of each field of State, one lemma a field, so that no proof unfolds a record
update; and the reads of registers and keys through the operations. -/

namespace Sys2Proof.Machine

variable (s : State)

/-! ### setV -/

@[simp] theorem State.setV_memory (x : Reg) (v : Byte) : (s.setV x v).memory = s.memory := rfl
@[simp] theorem State.setV_V (x : Reg) (v : Byte) : (s.setV x v).V = s.V.set x.toNat v x.isLt := rfl
@[simp] theorem State.setV_I (x : Reg) (v : Byte) : (s.setV x v).I = s.I := rfl
@[simp] theorem State.setV_pc (x : Reg) (v : Byte) : (s.setV x v).pc = s.pc := rfl
@[simp] theorem State.setV_stack (x : Reg) (v : Byte) : (s.setV x v).stack = s.stack := rfl
@[simp] theorem State.setV_SP (x : Reg) (v : Byte) : (s.setV x v).SP = s.SP := rfl
@[simp] theorem State.setV_DT (x : Reg) (v : Byte) : (s.setV x v).DT = s.DT := rfl
@[simp] theorem State.setV_ST (x : Reg) (v : Byte) : (s.setV x v).ST = s.ST := rfl
@[simp] theorem State.setV_key (x : Reg) (v : Byte) : (s.setV x v).key = s.key := rfl
@[simp] theorem State.setV_fb (x : Reg) (v : Byte) : (s.setV x v).fb = s.fb := rfl
@[simp] theorem State.setV_run (x : Reg) (v : Byte) : (s.setV x v).run = s.run := rfl
@[simp] theorem State.setV_draws (x : Reg) (v : Byte) : (s.setV x v).draws = s.draws := rfl
@[simp] theorem State.setV_drawIndex (x : Reg) (v : Byte) : (s.setV x v).drawIndex = s.drawIndex := rfl

/-! ### setI -/

@[simp] theorem State.setI_memory (v : Word) : (s.setI v).memory = s.memory := rfl
@[simp] theorem State.setI_V (v : Word) : (s.setI v).V = s.V := rfl
@[simp] theorem State.setI_I (v : Word) : (s.setI v).I = v := rfl
@[simp] theorem State.setI_pc (v : Word) : (s.setI v).pc = s.pc := rfl
@[simp] theorem State.setI_stack (v : Word) : (s.setI v).stack = s.stack := rfl
@[simp] theorem State.setI_SP (v : Word) : (s.setI v).SP = s.SP := rfl
@[simp] theorem State.setI_DT (v : Word) : (s.setI v).DT = s.DT := rfl
@[simp] theorem State.setI_ST (v : Word) : (s.setI v).ST = s.ST := rfl
@[simp] theorem State.setI_key (v : Word) : (s.setI v).key = s.key := rfl
@[simp] theorem State.setI_fb (v : Word) : (s.setI v).fb = s.fb := rfl
@[simp] theorem State.setI_run (v : Word) : (s.setI v).run = s.run := rfl
@[simp] theorem State.setI_draws (v : Word) : (s.setI v).draws = s.draws := rfl
@[simp] theorem State.setI_drawIndex (v : Word) : (s.setI v).drawIndex = s.drawIndex := rfl

/-! ### setDT -/

@[simp] theorem State.setDT_memory (v : Byte) : (s.setDT v).memory = s.memory := rfl
@[simp] theorem State.setDT_V (v : Byte) : (s.setDT v).V = s.V := rfl
@[simp] theorem State.setDT_I (v : Byte) : (s.setDT v).I = s.I := rfl
@[simp] theorem State.setDT_pc (v : Byte) : (s.setDT v).pc = s.pc := rfl
@[simp] theorem State.setDT_stack (v : Byte) : (s.setDT v).stack = s.stack := rfl
@[simp] theorem State.setDT_SP (v : Byte) : (s.setDT v).SP = s.SP := rfl
@[simp] theorem State.setDT_DT (v : Byte) : (s.setDT v).DT = v := rfl
@[simp] theorem State.setDT_ST (v : Byte) : (s.setDT v).ST = s.ST := rfl
@[simp] theorem State.setDT_key (v : Byte) : (s.setDT v).key = s.key := rfl
@[simp] theorem State.setDT_fb (v : Byte) : (s.setDT v).fb = s.fb := rfl
@[simp] theorem State.setDT_run (v : Byte) : (s.setDT v).run = s.run := rfl
@[simp] theorem State.setDT_draws (v : Byte) : (s.setDT v).draws = s.draws := rfl
@[simp] theorem State.setDT_drawIndex (v : Byte) : (s.setDT v).drawIndex = s.drawIndex := rfl

/-! ### setST -/

@[simp] theorem State.setST_memory (v : Byte) : (s.setST v).memory = s.memory := rfl
@[simp] theorem State.setST_V (v : Byte) : (s.setST v).V = s.V := rfl
@[simp] theorem State.setST_I (v : Byte) : (s.setST v).I = s.I := rfl
@[simp] theorem State.setST_pc (v : Byte) : (s.setST v).pc = s.pc := rfl
@[simp] theorem State.setST_stack (v : Byte) : (s.setST v).stack = s.stack := rfl
@[simp] theorem State.setST_SP (v : Byte) : (s.setST v).SP = s.SP := rfl
@[simp] theorem State.setST_DT (v : Byte) : (s.setST v).DT = s.DT := rfl
@[simp] theorem State.setST_ST (v : Byte) : (s.setST v).ST = v := rfl
@[simp] theorem State.setST_key (v : Byte) : (s.setST v).key = s.key := rfl
@[simp] theorem State.setST_fb (v : Byte) : (s.setST v).fb = s.fb := rfl
@[simp] theorem State.setST_run (v : Byte) : (s.setST v).run = s.run := rfl
@[simp] theorem State.setST_draws (v : Byte) : (s.setST v).draws = s.draws := rfl
@[simp] theorem State.setST_drawIndex (v : Byte) : (s.setST v).drawIndex = s.drawIndex := rfl

/-! ### setFb -/

@[simp] theorem State.setFb_memory (v : Screen) : (s.setFb v).memory = s.memory := rfl
@[simp] theorem State.setFb_V (v : Screen) : (s.setFb v).V = s.V := rfl
@[simp] theorem State.setFb_I (v : Screen) : (s.setFb v).I = s.I := rfl
@[simp] theorem State.setFb_pc (v : Screen) : (s.setFb v).pc = s.pc := rfl
@[simp] theorem State.setFb_stack (v : Screen) : (s.setFb v).stack = s.stack := rfl
@[simp] theorem State.setFb_SP (v : Screen) : (s.setFb v).SP = s.SP := rfl
@[simp] theorem State.setFb_DT (v : Screen) : (s.setFb v).DT = s.DT := rfl
@[simp] theorem State.setFb_ST (v : Screen) : (s.setFb v).ST = s.ST := rfl
@[simp] theorem State.setFb_key (v : Screen) : (s.setFb v).key = s.key := rfl
@[simp] theorem State.setFb_fb (v : Screen) : (s.setFb v).fb = v := rfl
@[simp] theorem State.setFb_run (v : Screen) : (s.setFb v).run = s.run := rfl
@[simp] theorem State.setFb_draws (v : Screen) : (s.setFb v).draws = s.draws := rfl
@[simp] theorem State.setFb_drawIndex (v : Screen) : (s.setFb v).drawIndex = s.drawIndex := rfl

/-! ### setRun -/

@[simp] theorem State.setRun_memory (v : Run) : (s.setRun v).memory = s.memory := rfl
@[simp] theorem State.setRun_V (v : Run) : (s.setRun v).V = s.V := rfl
@[simp] theorem State.setRun_I (v : Run) : (s.setRun v).I = s.I := rfl
@[simp] theorem State.setRun_pc (v : Run) : (s.setRun v).pc = s.pc := rfl
@[simp] theorem State.setRun_stack (v : Run) : (s.setRun v).stack = s.stack := rfl
@[simp] theorem State.setRun_SP (v : Run) : (s.setRun v).SP = s.SP := rfl
@[simp] theorem State.setRun_DT (v : Run) : (s.setRun v).DT = s.DT := rfl
@[simp] theorem State.setRun_ST (v : Run) : (s.setRun v).ST = s.ST := rfl
@[simp] theorem State.setRun_key (v : Run) : (s.setRun v).key = s.key := rfl
@[simp] theorem State.setRun_fb (v : Run) : (s.setRun v).fb = s.fb := rfl
@[simp] theorem State.setRun_run (v : Run) : (s.setRun v).run = v := rfl
@[simp] theorem State.setRun_draws (v : Run) : (s.setRun v).draws = s.draws := rfl
@[simp] theorem State.setRun_drawIndex (v : Run) : (s.setRun v).drawIndex = s.drawIndex := rfl

/-! ### setKey -/

@[simp] theorem State.setKey_memory (k : Key) (v : Bool) : (s.setKey k v).memory = s.memory := rfl
@[simp] theorem State.setKey_V (k : Key) (v : Bool) : (s.setKey k v).V = s.V := rfl
@[simp] theorem State.setKey_I (k : Key) (v : Bool) : (s.setKey k v).I = s.I := rfl
@[simp] theorem State.setKey_pc (k : Key) (v : Bool) : (s.setKey k v).pc = s.pc := rfl
@[simp] theorem State.setKey_stack (k : Key) (v : Bool) : (s.setKey k v).stack = s.stack := rfl
@[simp] theorem State.setKey_SP (k : Key) (v : Bool) : (s.setKey k v).SP = s.SP := rfl
@[simp] theorem State.setKey_DT (k : Key) (v : Bool) : (s.setKey k v).DT = s.DT := rfl
@[simp] theorem State.setKey_ST (k : Key) (v : Bool) : (s.setKey k v).ST = s.ST := rfl
@[simp] theorem State.setKey_key (k : Key) (v : Bool) : (s.setKey k v).key = s.key.set k.toNat v k.isLt := rfl
@[simp] theorem State.setKey_fb (k : Key) (v : Bool) : (s.setKey k v).fb = s.fb := rfl
@[simp] theorem State.setKey_run (k : Key) (v : Bool) : (s.setKey k v).run = s.run := rfl
@[simp] theorem State.setKey_draws (k : Key) (v : Bool) : (s.setKey k v).draws = s.draws := rfl
@[simp] theorem State.setKey_drawIndex (k : Key) (v : Bool) : (s.setKey k v).drawIndex = s.drawIndex := rfl

/-! ### setPc -/

@[simp] theorem State.setPc_memory (v : Word) : (s.setPc v).memory = s.memory := rfl
@[simp] theorem State.setPc_V (v : Word) : (s.setPc v).V = s.V := rfl
@[simp] theorem State.setPc_I (v : Word) : (s.setPc v).I = s.I := rfl
@[simp] theorem State.setPc_pc (v : Word) : (s.setPc v).pc = v := rfl
@[simp] theorem State.setPc_stack (v : Word) : (s.setPc v).stack = s.stack := rfl
@[simp] theorem State.setPc_SP (v : Word) : (s.setPc v).SP = s.SP := rfl
@[simp] theorem State.setPc_DT (v : Word) : (s.setPc v).DT = s.DT := rfl
@[simp] theorem State.setPc_ST (v : Word) : (s.setPc v).ST = s.ST := rfl
@[simp] theorem State.setPc_key (v : Word) : (s.setPc v).key = s.key := rfl
@[simp] theorem State.setPc_fb (v : Word) : (s.setPc v).fb = s.fb := rfl
@[simp] theorem State.setPc_run (v : Word) : (s.setPc v).run = s.run := rfl
@[simp] theorem State.setPc_draws (v : Word) : (s.setPc v).draws = s.draws := rfl
@[simp] theorem State.setPc_drawIndex (v : Word) : (s.setPc v).drawIndex = s.drawIndex := rfl

/-! ### advance -/

@[simp] theorem State.advance_memory : (s.advance).memory = s.memory := rfl
@[simp] theorem State.advance_V : (s.advance).V = s.V := rfl
@[simp] theorem State.advance_I : (s.advance).I = s.I := rfl
@[simp] theorem State.advance_pc : (s.advance).pc = s.pc + 2 := rfl
@[simp] theorem State.advance_stack : (s.advance).stack = s.stack := rfl
@[simp] theorem State.advance_SP : (s.advance).SP = s.SP := rfl
@[simp] theorem State.advance_DT : (s.advance).DT = s.DT := rfl
@[simp] theorem State.advance_ST : (s.advance).ST = s.ST := rfl
@[simp] theorem State.advance_key : (s.advance).key = s.key := rfl
@[simp] theorem State.advance_fb : (s.advance).fb = s.fb := rfl
@[simp] theorem State.advance_run : (s.advance).run = s.run := rfl
@[simp] theorem State.advance_draws : (s.advance).draws = s.draws := rfl
@[simp] theorem State.advance_drawIndex : (s.advance).drawIndex = s.drawIndex := rfl

/-! ### skipIf -/

@[simp] theorem State.skipIf_memory (p : Bool) : (s.skipIf p).memory = s.memory := rfl
@[simp] theorem State.skipIf_V (p : Bool) : (s.skipIf p).V = s.V := rfl
@[simp] theorem State.skipIf_I (p : Bool) : (s.skipIf p).I = s.I := rfl
@[simp] theorem State.skipIf_pc (p : Bool) : (s.skipIf p).pc = if p then s.pc + 4 else s.pc + 2 := rfl
@[simp] theorem State.skipIf_stack (p : Bool) : (s.skipIf p).stack = s.stack := rfl
@[simp] theorem State.skipIf_SP (p : Bool) : (s.skipIf p).SP = s.SP := rfl
@[simp] theorem State.skipIf_DT (p : Bool) : (s.skipIf p).DT = s.DT := rfl
@[simp] theorem State.skipIf_ST (p : Bool) : (s.skipIf p).ST = s.ST := rfl
@[simp] theorem State.skipIf_key (p : Bool) : (s.skipIf p).key = s.key := rfl
@[simp] theorem State.skipIf_fb (p : Bool) : (s.skipIf p).fb = s.fb := rfl
@[simp] theorem State.skipIf_run (p : Bool) : (s.skipIf p).run = s.run := rfl
@[simp] theorem State.skipIf_draws (p : Bool) : (s.skipIf p).draws = s.draws := rfl
@[simp] theorem State.skipIf_drawIndex (p : Bool) : (s.skipIf p).drawIndex = s.drawIndex := rfl

/-! ### push -/

@[simp] theorem State.push_memory (v : Addr) (h : s.SP.val < 16) : (s.push v h).memory = s.memory := rfl
@[simp] theorem State.push_V (v : Addr) (h : s.SP.val < 16) : (s.push v h).V = s.V := rfl
@[simp] theorem State.push_I (v : Addr) (h : s.SP.val < 16) : (s.push v h).I = s.I := rfl
@[simp] theorem State.push_pc (v : Addr) (h : s.SP.val < 16) : (s.push v h).pc = s.pc := rfl
@[simp] theorem State.push_stack (v : Addr) (h : s.SP.val < 16) : (s.push v h).stack = s.stack.set s.SP.val v h := rfl
@[simp] theorem State.push_SP (v : Addr) (h : s.SP.val < 16) : (s.push v h).SP = ⟨s.SP.val + 1, by omega⟩ := rfl
@[simp] theorem State.push_DT (v : Addr) (h : s.SP.val < 16) : (s.push v h).DT = s.DT := rfl
@[simp] theorem State.push_ST (v : Addr) (h : s.SP.val < 16) : (s.push v h).ST = s.ST := rfl
@[simp] theorem State.push_key (v : Addr) (h : s.SP.val < 16) : (s.push v h).key = s.key := rfl
@[simp] theorem State.push_fb (v : Addr) (h : s.SP.val < 16) : (s.push v h).fb = s.fb := rfl
@[simp] theorem State.push_run (v : Addr) (h : s.SP.val < 16) : (s.push v h).run = s.run := rfl
@[simp] theorem State.push_draws (v : Addr) (h : s.SP.val < 16) : (s.push v h).draws = s.draws := rfl
@[simp] theorem State.push_drawIndex (v : Addr) (h : s.SP.val < 16) : (s.push v h).drawIndex = s.drawIndex := rfl

/-! ### pop -/

@[simp] theorem State.pop_memory : (s.pop).memory = s.memory := rfl
@[simp] theorem State.pop_V : (s.pop).V = s.V := rfl
@[simp] theorem State.pop_I : (s.pop).I = s.I := rfl
@[simp] theorem State.pop_pc : (s.pop).pc = s.pc := rfl
@[simp] theorem State.pop_stack : (s.pop).stack = s.stack := rfl
@[simp] theorem State.pop_SP : (s.pop).SP = ⟨s.SP.val - 1, by have := s.SP.isLt; omega⟩ := rfl
@[simp] theorem State.pop_DT : (s.pop).DT = s.DT := rfl
@[simp] theorem State.pop_ST : (s.pop).ST = s.ST := rfl
@[simp] theorem State.pop_key : (s.pop).key = s.key := rfl
@[simp] theorem State.pop_fb : (s.pop).fb = s.fb := rfl
@[simp] theorem State.pop_run : (s.pop).run = s.run := rfl
@[simp] theorem State.pop_draws : (s.pop).draws = s.draws := rfl
@[simp] theorem State.pop_drawIndex : (s.pop).drawIndex = s.drawIndex := rfl

/-! ### writeBytes -/

@[simp] theorem State.writeBytes_memory (a : Nat) (vs : List Byte) : (s.writeBytes a vs).memory = s.memory.writeBytes a vs := rfl
@[simp] theorem State.writeBytes_V (a : Nat) (vs : List Byte) : (s.writeBytes a vs).V = s.V := rfl
@[simp] theorem State.writeBytes_I (a : Nat) (vs : List Byte) : (s.writeBytes a vs).I = s.I := rfl
@[simp] theorem State.writeBytes_pc (a : Nat) (vs : List Byte) : (s.writeBytes a vs).pc = s.pc := rfl
@[simp] theorem State.writeBytes_stack (a : Nat) (vs : List Byte) : (s.writeBytes a vs).stack = s.stack := rfl
@[simp] theorem State.writeBytes_SP (a : Nat) (vs : List Byte) : (s.writeBytes a vs).SP = s.SP := rfl
@[simp] theorem State.writeBytes_DT (a : Nat) (vs : List Byte) : (s.writeBytes a vs).DT = s.DT := rfl
@[simp] theorem State.writeBytes_ST (a : Nat) (vs : List Byte) : (s.writeBytes a vs).ST = s.ST := rfl
@[simp] theorem State.writeBytes_key (a : Nat) (vs : List Byte) : (s.writeBytes a vs).key = s.key := rfl
@[simp] theorem State.writeBytes_fb (a : Nat) (vs : List Byte) : (s.writeBytes a vs).fb = s.fb := rfl
@[simp] theorem State.writeBytes_run (a : Nat) (vs : List Byte) : (s.writeBytes a vs).run = s.run := rfl
@[simp] theorem State.writeBytes_draws (a : Nat) (vs : List Byte) : (s.writeBytes a vs).draws = s.draws := rfl
@[simp] theorem State.writeBytes_drawIndex (a : Nat) (vs : List Byte) : (s.writeBytes a vs).drawIndex = s.drawIndex := rfl

/-! ### setFlag -/

@[simp] theorem State.setFlag_memory (p : Bool) : (s.setFlag p).memory = s.memory := rfl
@[simp] theorem State.setFlag_V (p : Bool) : (s.setFlag p).V = s.V.set VF.toNat (bool01 p) VF.isLt := rfl
@[simp] theorem State.setFlag_I (p : Bool) : (s.setFlag p).I = s.I := rfl
@[simp] theorem State.setFlag_pc (p : Bool) : (s.setFlag p).pc = s.pc := rfl
@[simp] theorem State.setFlag_stack (p : Bool) : (s.setFlag p).stack = s.stack := rfl
@[simp] theorem State.setFlag_SP (p : Bool) : (s.setFlag p).SP = s.SP := rfl
@[simp] theorem State.setFlag_DT (p : Bool) : (s.setFlag p).DT = s.DT := rfl
@[simp] theorem State.setFlag_ST (p : Bool) : (s.setFlag p).ST = s.ST := rfl
@[simp] theorem State.setFlag_key (p : Bool) : (s.setFlag p).key = s.key := rfl
@[simp] theorem State.setFlag_fb (p : Bool) : (s.setFlag p).fb = s.fb := rfl
@[simp] theorem State.setFlag_run (p : Bool) : (s.setFlag p).run = s.run := rfl
@[simp] theorem State.setFlag_draws (p : Bool) : (s.setFlag p).draws = s.draws := rfl
@[simp] theorem State.setFlag_drawIndex (p : Bool) : (s.setFlag p).drawIndex = s.drawIndex := rfl

/-! ### consumeDraw: only the two fields of the random byte change -/

@[simp] theorem State.consumeDraw_memory : s.consumeDraw.memory = s.memory := by unfold State.consumeDraw; split <;> rfl
@[simp] theorem State.consumeDraw_V : s.consumeDraw.V = s.V := by unfold State.consumeDraw; split <;> rfl
@[simp] theorem State.consumeDraw_I : s.consumeDraw.I = s.I := by unfold State.consumeDraw; split <;> rfl
@[simp] theorem State.consumeDraw_pc : s.consumeDraw.pc = s.pc := by unfold State.consumeDraw; split <;> rfl
@[simp] theorem State.consumeDraw_stack : s.consumeDraw.stack = s.stack := by unfold State.consumeDraw; split <;> rfl
@[simp] theorem State.consumeDraw_SP : s.consumeDraw.SP = s.SP := by unfold State.consumeDraw; split <;> rfl
@[simp] theorem State.consumeDraw_DT : s.consumeDraw.DT = s.DT := by unfold State.consumeDraw; split <;> rfl
@[simp] theorem State.consumeDraw_ST : s.consumeDraw.ST = s.ST := by unfold State.consumeDraw; split <;> rfl
@[simp] theorem State.consumeDraw_key : s.consumeDraw.key = s.key := by unfold State.consumeDraw; split <;> rfl
@[simp] theorem State.consumeDraw_fb : s.consumeDraw.fb = s.fb := by unfold State.consumeDraw; split <;> rfl
@[simp] theorem State.consumeDraw_run : s.consumeDraw.run = s.run := by unfold State.consumeDraw; split <;> rfl

theorem State.consumeDraw_supplied (r : Byte) (rs : List Byte) (h : s.draws = r :: rs) :
    s.nextDraw = r ∧ s.consumeDraw.draws = rs ∧ s.consumeDraw.drawIndex = s.drawIndex := by
  simp [State.nextDraw, State.consumeDraw, h]

theorem State.consumeDraw_free (h : s.draws = []) :
    s.nextDraw = Config.drawRand s.drawIndex ∧ s.consumeDraw.draws = [] ∧
      s.consumeDraw.drawIndex = s.drawIndex + 1 := by
  simp [State.nextDraw, State.consumeDraw, h]

/-! ### setVs: only V changes -/

@[simp] theorem State.setVs_memory (k : Nat) (vs : List Byte) : (s.setVs k vs).memory = s.memory := by
  induction vs generalizing s k with
  | nil => rfl
  | cons v vs ih => simp [State.setVs, ih]
@[simp] theorem State.setVs_I (k : Nat) (vs : List Byte) : (s.setVs k vs).I = s.I := by
  induction vs generalizing s k with
  | nil => rfl
  | cons v vs ih => simp [State.setVs, ih]
@[simp] theorem State.setVs_pc (k : Nat) (vs : List Byte) : (s.setVs k vs).pc = s.pc := by
  induction vs generalizing s k with
  | nil => rfl
  | cons v vs ih => simp [State.setVs, ih]
@[simp] theorem State.setVs_stack (k : Nat) (vs : List Byte) : (s.setVs k vs).stack = s.stack := by
  induction vs generalizing s k with
  | nil => rfl
  | cons v vs ih => simp [State.setVs, ih]
@[simp] theorem State.setVs_SP (k : Nat) (vs : List Byte) : (s.setVs k vs).SP = s.SP := by
  induction vs generalizing s k with
  | nil => rfl
  | cons v vs ih => simp [State.setVs, ih]
@[simp] theorem State.setVs_DT (k : Nat) (vs : List Byte) : (s.setVs k vs).DT = s.DT := by
  induction vs generalizing s k with
  | nil => rfl
  | cons v vs ih => simp [State.setVs, ih]
@[simp] theorem State.setVs_ST (k : Nat) (vs : List Byte) : (s.setVs k vs).ST = s.ST := by
  induction vs generalizing s k with
  | nil => rfl
  | cons v vs ih => simp [State.setVs, ih]
@[simp] theorem State.setVs_key (k : Nat) (vs : List Byte) : (s.setVs k vs).key = s.key := by
  induction vs generalizing s k with
  | nil => rfl
  | cons v vs ih => simp [State.setVs, ih]
@[simp] theorem State.setVs_fb (k : Nat) (vs : List Byte) : (s.setVs k vs).fb = s.fb := by
  induction vs generalizing s k with
  | nil => rfl
  | cons v vs ih => simp [State.setVs, ih]
@[simp] theorem State.setVs_run (k : Nat) (vs : List Byte) : (s.setVs k vs).run = s.run := by
  induction vs generalizing s k with
  | nil => rfl
  | cons v vs ih => simp [State.setVs, ih]
@[simp] theorem State.setVs_draws (k : Nat) (vs : List Byte) : (s.setVs k vs).draws = s.draws := by
  induction vs generalizing s k with
  | nil => rfl
  | cons v vs ih => simp [State.setVs, ih]
@[simp] theorem State.setVs_drawIndex (k : Nat) (vs : List Byte) : (s.setVs k vs).drawIndex = s.drawIndex := by
  induction vs generalizing s k with
  | nil => rfl
  | cons v vs ih => simp [State.setVs, ih]

/-! ### Registers -/

/-- A read of a register after a write to one (R22). -/
theorem State.getV_setV (x y : Reg) (v : Byte) : (s.setV x v).getV y = if y = x then v else s.getV y := by
  unfold State.getV State.setV
  by_cases h : y = x
  · subst h; simp
  · have : x.toNat ≠ y.toNat := fun e => h (BitVec.eq_of_toNat_eq e.symm)
    simp [h, Vector.getElem_set_ne, this]

@[simp] theorem State.getV_setV_same (x : Reg) (v : Byte) : (s.setV x v).getV x = v := by simp [State.getV_setV]

theorem State.getV_setV_other {x y : Reg} (v : Byte) (h : y ≠ x) : (s.setV x v).getV y = s.getV y := by
  simp [State.getV_setV, h]

/-- A read of a register after a flag write (R131). -/
theorem State.getV_setFlag (p : Bool) (y : Reg) : (s.setFlag p).getV y = if y = VF then bool01 p else s.getV y :=
  s.getV_setV VF y (bool01 p)

/-- Two states with the same registers read the same. -/
theorem State.getV_congr {s t : State} (h : s.V = t.V) (x : Reg) : s.getV x = t.getV x := by
  simp [State.getV, h]

@[simp] theorem State.getV_setI (v : Word) (y : Reg) : (s.setI v).getV y = s.getV y := rfl
@[simp] theorem State.getV_setDT (v : Byte) (y : Reg) : (s.setDT v).getV y = s.getV y := rfl
@[simp] theorem State.getV_setST (v : Byte) (y : Reg) : (s.setST v).getV y = s.getV y := rfl
@[simp] theorem State.getV_setFb (v : Screen) (y : Reg) : (s.setFb v).getV y = s.getV y := rfl
@[simp] theorem State.getV_setRun (v : Run) (y : Reg) : (s.setRun v).getV y = s.getV y := rfl
@[simp] theorem State.getV_setKey (k : Key) (v : Bool) (y : Reg) : (s.setKey k v).getV y = s.getV y := rfl
@[simp] theorem State.getV_setPc (v : Word) (y : Reg) : (s.setPc v).getV y = s.getV y := rfl
@[simp] theorem State.getV_advance (y : Reg) : (s.advance).getV y = s.getV y := rfl
@[simp] theorem State.getV_skipIf (p : Bool) (y : Reg) : (s.skipIf p).getV y = s.getV y := rfl
@[simp] theorem State.getV_push (v : Addr) (h : s.SP.val < 16) (y : Reg) : (s.push v h).getV y = s.getV y := rfl
@[simp] theorem State.getV_pop (y : Reg) : (s.pop).getV y = s.getV y := rfl
@[simp] theorem State.getV_writeBytes (a : Nat) (vs : List Byte) (y : Reg) : (s.writeBytes a vs).getV y = s.getV y := rfl
@[simp] theorem State.getV_consumeDraw (y : Reg) : s.consumeDraw.getV y = s.getV y :=
  State.getV_congr (State.consumeDraw_V s) y

/-- A read of a register after bytes were loaded into `V[k]`, `V[k+1]`, … (R167). -/
theorem State.getV_setVs (k : Nat) (vs : List Byte) (hk : k + vs.length ≤ 16) (y : Reg) :
    (s.setVs k vs).getV y =
      if h : k ≤ y.toNat ∧ y.toNat < k + vs.length then vs[y.toNat - k]'(by omega) else s.getV y := by
  induction vs generalizing s k with
  | nil => have : ¬(k ≤ y.toNat ∧ y.toNat < k) := by omega
           simp [State.setVs, this]
  | cons v vs ih =>
    simp only [List.length_cons] at hk
    rw [State.setVs, ih _ _ (by omega)]
    by_cases hy : y.toNat = k
    · have hyk : y = BitVec.ofNat 4 k := by apply BitVec.eq_of_toNat_eq; simp; omega
      have h1 : ¬(k + 1 ≤ y.toNat ∧ y.toNat < k + 1 + vs.length) := by omega
      have h2 : k ≤ y.toNat ∧ y.toNat < k + (v :: vs).length := by simp; omega
      rw [dif_neg h1, dif_pos h2, ← hyk, State.getV_setV_same]
      simp [hy]
    · have hne : y ≠ BitVec.ofNat 4 k := by
        intro e; apply hy; rw [e]; simp; omega
      rw [State.getV_setV_other s v hne]
      by_cases h1 : k + 1 ≤ y.toNat ∧ y.toNat < k + 1 + vs.length
      · have h2 : k ≤ y.toNat ∧ y.toNat < k + (v :: vs).length := by simp; omega
        rw [dif_pos h1, dif_pos h2]
        have : y.toNat - k = (y.toNat - (k + 1)) + 1 := by omega
        simp [this]
      · have h2 : ¬(k ≤ y.toNat ∧ y.toNat < k + (v :: vs).length) := by simp; omega
        rw [dif_neg h1, dif_neg h2]

@[simp] theorem State.getVs_length (x : Reg) : (s.getVs x).length = x.toNat + 1 := by simp [State.getVs]

theorem State.getVs_getElem (x : Reg) (k : Nat) (h : k < (s.getVs x).length) :
    (s.getVs x)[k] = s.getV (BitVec.ofNat 4 k) := by simp [State.getVs]

/-! ### Keys -/

/-- A read of a latch after a write to one (R29). -/
theorem State.getKey_setKey (j k : Key) (v : Bool) : (s.setKey k v).getKey j = if j = k then v else s.getKey j := by
  unfold State.getKey State.setKey
  by_cases h : j = k
  · subst h; simp
  · have : k.toNat ≠ j.toNat := fun e => h (BitVec.eq_of_toNat_eq e.symm)
    simp [h, Vector.getElem_set_ne, this]

@[simp] theorem State.getKey_setV (x : Reg) (v : Byte) (j : Key) : (s.setV x v).getKey j = s.getKey j := rfl
@[simp] theorem State.getKey_setI (v : Word) (j : Key) : (s.setI v).getKey j = s.getKey j := rfl
@[simp] theorem State.getKey_setDT (v : Byte) (j : Key) : (s.setDT v).getKey j = s.getKey j := rfl
@[simp] theorem State.getKey_setST (v : Byte) (j : Key) : (s.setST v).getKey j = s.getKey j := rfl
@[simp] theorem State.getKey_setFb (v : Screen) (j : Key) : (s.setFb v).getKey j = s.getKey j := rfl
@[simp] theorem State.getKey_setRun (v : Run) (j : Key) : (s.setRun v).getKey j = s.getKey j := rfl
@[simp] theorem State.getKey_setPc (v : Word) (j : Key) : (s.setPc v).getKey j = s.getKey j := rfl
@[simp] theorem State.getKey_advance (j : Key) : (s.advance).getKey j = s.getKey j := rfl
@[simp] theorem State.getKey_skipIf (p : Bool) (j : Key) : (s.skipIf p).getKey j = s.getKey j := rfl
@[simp] theorem State.getKey_push (v : Addr) (h : s.SP.val < 16) (j : Key) : (s.push v h).getKey j = s.getKey j := rfl
@[simp] theorem State.getKey_pop (j : Key) : (s.pop).getKey j = s.getKey j := rfl
@[simp] theorem State.getKey_writeBytes (a : Nat) (vs : List Byte) (j : Key) : (s.writeBytes a vs).getKey j = s.getKey j := rfl
@[simp] theorem State.getKey_setFlag (p : Bool) (j : Key) : (s.setFlag p).getKey j = s.getKey j := rfl

/-- Two states with the same latches read the same. -/
theorem State.getKey_congr {s t : State} (h : s.key = t.key) (k : Key) : s.getKey k = t.getKey k := by
  simp [State.getKey, h]

/-! ### Bytes of memory -/

/-- Two states with the same memory read the same. -/
theorem State.readByte_congr {s t : State} (h : s.memory = t.memory) (a : Nat) : s.readByte a = t.readByte a := by
  simp [State.readByte, h]

@[simp] theorem State.readByte_setV (x : Reg) (v : Byte) (m : Nat) : (s.setV x v).readByte m = s.readByte m := rfl
@[simp] theorem State.readByte_setI (v : Word) (m : Nat) : (s.setI v).readByte m = s.readByte m := rfl
@[simp] theorem State.readByte_setDT (v : Byte) (m : Nat) : (s.setDT v).readByte m = s.readByte m := rfl
@[simp] theorem State.readByte_setST (v : Byte) (m : Nat) : (s.setST v).readByte m = s.readByte m := rfl
@[simp] theorem State.readByte_setFb (v : Screen) (m : Nat) : (s.setFb v).readByte m = s.readByte m := rfl
@[simp] theorem State.readByte_setRun (v : Run) (m : Nat) : (s.setRun v).readByte m = s.readByte m := rfl
@[simp] theorem State.readByte_setKey (k : Key) (v : Bool) (m : Nat) : (s.setKey k v).readByte m = s.readByte m := rfl
@[simp] theorem State.readByte_setPc (v : Word) (m : Nat) : (s.setPc v).readByte m = s.readByte m := rfl
@[simp] theorem State.readByte_advance (m : Nat) : (s.advance).readByte m = s.readByte m := rfl
@[simp] theorem State.readByte_skipIf (p : Bool) (m : Nat) : (s.skipIf p).readByte m = s.readByte m := rfl
@[simp] theorem State.readByte_push (v : Addr) (h : s.SP.val < 16) (m : Nat) : (s.push v h).readByte m = s.readByte m := rfl
@[simp] theorem State.readByte_pop (m : Nat) : (s.pop).readByte m = s.readByte m := rfl
@[simp] theorem State.readByte_setFlag (p : Bool) (m : Nat) : (s.setFlag p).readByte m = s.readByte m := rfl
@[simp] theorem State.readByte_consumeDraw (m : Nat) : s.consumeDraw.readByte m = s.readByte m :=
  State.readByte_congr (State.consumeDraw_memory s) m
@[simp] theorem State.readByte_setVs (k : Nat) (vs : List Byte) (m : Nat) : (s.setVs k vs).readByte m = s.readByte m :=
  State.readByte_congr (State.setVs_memory s k vs) m

@[simp] theorem State.readBytes_length (a k : Nat) : (s.readBytes a k).length = k := by simp [State.readBytes]

theorem State.readBytes_getElem (a k j : Nat) (h : j < (s.readBytes a k).length) :
    (s.readBytes a k)[j] = s.readByte (a + j) := by simp [State.readBytes]

end Sys2Proof.Machine
end

