-- ==== Sys2Proof/Laws/Memory.lean ====
section
/-! SUPPORT. The laws of Memory: a read after a write (R60), and that every operation keeps the canonical form. -/

namespace Sys2Proof.Machine

/-! ### Reading after writing; no law needs the canonical form -/

theorem Memory.listed_insert (m : Memory) (c : Host.Cell) (b : Nat) (h : m.listed c.1 = none) :
    (m.insert c).listed b = if b = c.1 then some c.2 else m.listed b := by
  induction m with
  | nil => by_cases hb : b = c.1 <;> simp [Memory.insert, Memory.listed, hb, eq_comm]
  | cons d m ih =>
    have hd : d.1 ≠ c.1 := by intro e; simp [Memory.listed, e] at h
    have hm : Memory.listed m c.1 = none := by simpa [Memory.listed, hd] using h
    by_cases hlt : c.1 < d.1
    · simp only [Memory.insert, hlt, if_true, Memory.listed]
      by_cases hb : b = c.1
      · simp [hb]
      · simp [hb, Ne.symm hb]
    · simp only [Memory.insert, hlt, if_false, Memory.listed, ih hm]
      by_cases hdb : d.1 = b
      · have : b ≠ c.1 := hdb ▸ hd
        simp [hdb, this]
      · simp [hdb]

theorem Memory.listed_erase (m : Memory) (a b : Nat) :
    (m.erase a).listed b = if b = a then none else m.listed b := by
  induction m with
  | nil => simp [Memory.erase, Memory.listed]
  | cons d m ih =>
    unfold Memory.erase at ih ⊢
    by_cases hd : d.1 = a
    · rw [List.filter_cons_of_neg (by simp [hd]), ih]
      by_cases hb : b = a
      · simp [hb]
      · have : ¬ d.1 = b := by rw [hd]; exact Ne.symm hb
        simp [hb, Memory.listed, this]
    · rw [List.filter_cons_of_pos (by simp [hd])]
      simp only [Memory.listed, ih]
      by_cases hb : b = a
      · have : ¬ d.1 = b := by rw [hb]; exact hd
        simp [hb, hd]
      · simp [hb]

/-- Every read returns the last byte written to its address, and a write leaves every other address alone (R60). -/
theorem Memory.read_write (m : Memory) (a b : Nat) (v : Byte) :
    (m.write a v).read b = if b = a then v else m.read b := by
  unfold Memory.write Memory.read
  by_cases hv : v = creationByte a
  · rw [if_pos hv, Memory.listed_erase]
    by_cases hb : b = a
    · simp [hb, hv]
    · simp [hb]
  · rw [if_neg hv, Memory.listed_insert _ _ _ (by simp [Memory.listed_erase]), Memory.listed_erase]
    by_cases hb : b = a <;> simp [hb]

/-- A read after consecutive bytes were written from `a` up (R51, R60). -/
theorem Memory.read_writeBytes (m : Memory) (a b : Nat) (vs : List Byte) :
    (m.writeBytes a vs).read b =
      if h : a ≤ b ∧ b < a + vs.length then vs[b - a]'(by omega) else m.read b := by
  induction vs generalizing m a with
  | nil => have : ¬(a ≤ b ∧ b < a) := by omega
           simp [Memory.writeBytes, this]
  | cons v vs ih =>
    rw [Memory.writeBytes, ih, Memory.read_write]
    by_cases hb : b = a
    · have h1 : ¬(a + 1 ≤ b ∧ b < a + 1 + vs.length) := by omega
      have h2 : a ≤ b ∧ b < a + (v :: vs).length := by simp; omega
      rw [dif_neg h1, dif_pos h2]
      simp [hb]
    · by_cases h1 : a + 1 ≤ b ∧ b < a + 1 + vs.length
      · have h2 : a ≤ b ∧ b < a + (v :: vs).length := by simp; omega
        rw [dif_pos h1, dif_pos h2]
        have : b - a = (b - (a + 1)) + 1 := by omega
        simp [this]
      · have h2 : ¬(a ≤ b ∧ b < a + (v :: vs).length) := by simp; omega
        rw [dif_neg h1, dif_neg h2]
        simp [hb]

theorem State.readByte_writeBytes (s : State) (a b : Nat) (vs : List Byte) :
    (s.writeBytes a vs).readByte b =
      if h : a ≤ b ∧ b < a + vs.length then vs[b - a]'(by omega) else s.readByte b :=
  Memory.read_writeBytes s.memory a b vs

/-! ### The canonical form -/

theorem Memory.mem_insert (m : Memory) (c d : Host.Cell) : d ∈ m.insert c ↔ d = c ∨ d ∈ m := by
  induction m with
  | nil => simp [Memory.insert]
  | cons e m ih =>
    by_cases h : c.1 < e.1
    · simp [Memory.insert, h]
    · simp only [Memory.insert, h, if_false, List.mem_cons, ih]; tauto

theorem Memory.insert_sorted (m : Memory) (c : Host.Cell) (hs : m.Pairwise (fun a b => a.1 < b.1))
    (hne : ∀ d ∈ m, d.1 ≠ c.1) : (m.insert c).Pairwise (fun a b => a.1 < b.1) := by
  induction m with
  | nil => simp [Memory.insert]
  | cons e m ih =>
    have he := List.pairwise_cons.1 hs
    by_cases h : c.1 < e.1
    · simp only [Memory.insert, h, if_true]
      refine List.pairwise_cons.2 ⟨fun d hd => ?_, hs⟩
      rcases List.mem_cons.1 hd with rfl | hd
      · exact h
      · exact h.trans (he.1 d hd)
    · simp only [Memory.insert, h, if_false]
      refine List.pairwise_cons.2 ⟨fun d hd => ?_, ih he.2 (fun d hd => hne d (List.mem_cons_of_mem _ hd))⟩
      rcases (Memory.mem_insert m c d).1 hd with rfl | hd
      · have := hne e List.mem_cons_self; omega
      · exact he.1 d hd

/-- Creation lists nothing, which is the canonical form. -/
theorem Memory.wf_nil : Memory.wf [] := by simp [Memory.wf]

theorem Memory.erase_wf (m : Memory) (a : Nat) (h : m.wf) : (m.erase a).wf :=
  ⟨h.1.filter _, fun c hc => h.2 c (List.mem_of_mem_filter hc)⟩

/-- A write to an address of the block keeps the canonical form. -/
theorem Memory.write_wf (m : Memory) (a : Nat) (v : Byte) (ha : a ≤ 0xFFF) (h : m.wf) : (m.write a v).wf := by
  unfold Memory.write
  by_cases hv : v = creationByte a
  · rw [if_pos hv]; exact m.erase_wf a h
  · rw [if_neg hv]
    have he := m.erase_wf a h
    refine ⟨Memory.insert_sorted _ _ he.1 (fun d hd => ?_), fun c hc => ?_⟩
    · have := List.of_mem_filter hd
      simpa using this
    · rcases (Memory.mem_insert _ _ c).1 hc with rfl | hc
      · exact ⟨ha, hv⟩
      · exact he.2 c hc

/-- Consecutive writes inside the block keep the canonical form. -/
theorem Memory.writeBytes_wf (m : Memory) (a : Nat) (vs : List Byte) (ha : a + vs.length ≤ 0x1000) (h : m.wf) :
    (m.writeBytes a vs).wf := by
  induction vs generalizing m a with
  | nil => exact h
  | cons v vs ih =>
    simp only [List.length_cons] at ha
    exact ih _ _ (by omega) (m.write_wf a v (by omega) h)

end Sys2Proof.Machine
end

