-- ==== Sys2Proof/Laws/Ops.lean ====
section
/-! SUPPORT. One lemma for each shared check or operation that says once everything it can do. -/

namespace Sys2Proof.Machine

/-- The span check fails exactly when the span has a byte above 0xFFF, with the highest address (R160). -/
theorem spanFault_eq_some (base k : Nat) (e : Fault) :
    spanFault base k = some e ↔ k ≠ 0 ∧ base + k - 1 > 0xFFF ∧ e = .addressOutOfRange (base + k - 1) := by
  unfold spanFault
  by_cases hk : k = 0
  · simp [hk]
  · by_cases hb : base + k - 1 > 0xFFF
    · simp [hk, hb, eq_comm]
    · simp [hk, hb]

/-- The span check passes exactly when the span has no byte above 0xFFF (R160). -/
theorem spanFault_eq_none (base k : Nat) : spanFault base k = none ↔ k = 0 ∨ base + k ≤ 0x1000 := by
  unfold spanFault
  by_cases hk : k = 0
  · simp [hk]
  · by_cases hb : base + k - 1 > 0xFFF
    · simp [hk, hb]; omega
    · simp [hk, hb]; omega

/-- The index check fails exactly on an operand above 15, with the operand (R226). -/
theorem indexFault_eq_some (v : Byte) (e : Fault) :
    indexFault v = some e ↔ v.toNat > 0xF ∧ e = .operandOutOfRange v := by
  unfold indexFault
  by_cases hv : v.toNat > 0xF <;> simp [hv, eq_comm]

theorem indexFault_eq_none (v : Byte) : indexFault v = none ↔ v.toNat ≤ 0xF := by
  unfold indexFault
  by_cases hv : v.toNat > 0xF
  · simp [hv]
  · simp [hv]; omega

/-- A store at `I` answers the bytes written and pc advanced, or the span's error. -/
theorem storeAtIndex_cases (vs : List Byte) (s : State) :
    (spanFault (indexBase s) vs.length = none ∧
      storeAtIndex vs s = .next (s.writeBytes (indexBase s) vs).advance) ∨
    (∃ e, spanFault (indexBase s) vs.length = some e ∧ storeAtIndex vs s = .fault e) := by
  unfold storeAtIndex raise
  cases h : spanFault (indexBase s) vs.length with
  | none => exact .inl ⟨rfl, rfl⟩
  | some e => exact .inr ⟨e, rfl, rfl⟩

@[simp] theorem bcdDigits_length (v : Byte) : (bcdDigits v).length = 3 := rfl

/-- What an operation leaves (R97): the next state, or the state it began in. -/
@[simp] theorem stateAfter_next (s t : State) : stateAfter s (.next t) = t := rfl
@[simp] theorem stateAfter_fault (s : State) (e : Fault) : stateAfter s (.fault e) = s := rfl
@[simp] theorem stateAfter_refused (s : State) (r : Refusal) : stateAfter s (.refused r) = s := rfl

/-- The top entry after a push is the value pushed (R27). -/
theorem State.top_push (s : State) (v : Addr) (h : s.SP.val < 16) :
    (s.push v h).top (by simp) = v := by
  simp [State.top, State.push]

end Sys2Proof.Machine
end

