-- ==== Sys2Proof/Laws/Screen.lean ====
section
/-! SUPPORT. Reads of the framebuffer through its operations (44_display.md R180 to R182). -/

namespace Sys2Proof.Machine

/-- A cell after one cell was inverted. -/
theorem Screen.pixel_toggle (fb : Screen) (x x' : Fin 64) (y y' : Fin 32) :
    (fb.toggle x y).pixel x' y' = if x' = x ∧ y' = y then !fb.pixel x y else fb.pixel x' y' := by
  unfold Screen.toggle Screen.pixel
  by_cases hy : y' = y
  · subst hy
    by_cases hx : x' = x
    · subst hx; simp
    · have : x.val ≠ x'.val := fun e => hx (Fin.ext e.symm)
      simp [hx, Vector.getElem_set_ne, this]
  · have : y.val ≠ y'.val := fun e => hy (Fin.ext e.symm)
    simp [hy, Vector.getElem_set_ne, this]

@[simp] theorem Screen.pixel_clear (x : Fin 64) (y : Fin 32) : Screen.clear.pixel x y = false := by
  simp [Screen.clear, Screen.pixel]

/-- Two framebuffers with the same cells are the same. -/
theorem Screen.ext_pixel {a b : Screen} (h : ∀ x y, Screen.pixel a x y = Screen.pixel b x y) : a = b := by
  apply Vector.ext; intro y hy
  apply Vector.ext; intro x hx
  exact h ⟨x, hx⟩ ⟨y, hy⟩

@[simp] theorem wrapColumn_val (x : Nat) : (wrapColumn x).val = x % 64 := rfl
@[simp] theorem wrapRow_val (y : Nat) : (wrapRow y).val = y % 32 := rfl

/-- A sprite pixel that is set inverts its cell and adds the cell to the collision (R182). -/
theorem drawPixel_set {x0 y0 r c : Nat} {b : Byte} {d : Canvas} (h : b.getLsbD (7 - c) = true) :
    drawPixel x0 y0 r b d c =
      { fb := d.fb.toggle (wrapColumn (x0 + c)) (wrapRow (y0 + r))
        collision := d.collision || d.fb.pixel (wrapColumn (x0 + c)) (wrapRow (y0 + r)) } := by
  rw [drawPixel, if_pos h]

/-- A sprite pixel that is clear changes nothing (R182). -/
theorem drawPixel_clear {x0 y0 r c : Nat} {b : Byte} {d : Canvas} (h : b.getLsbD (7 - c) = false) :
    drawPixel x0 y0 r b d c = d := by
  rw [drawPixel, if_neg (by simp [h])]

@[simp] theorem drawRows_nil (x0 y0 r : Nat) (d : Canvas) : drawRows x0 y0 r [] d = d := rfl
@[simp] theorem drawRows_cons (x0 y0 r : Nat) (b : Byte) (bs : List Byte) (d : Canvas) :
    drawRows x0 y0 r (b :: bs) d = drawRows x0 y0 (r + 1) bs (drawRow x0 y0 r b d) := rfl

end Sys2Proof.Machine
end

