-- ==== Sys2Proof/Laws/Exec.lean ====
section
/-! SUPPORT. What each instruction answers, over the shared operations, one lemma a constructor; then what a step can do. -/

namespace Sys2Proof.Machine

section
variable (s : State) (x y : Reg) (nn : Byte) (nnn : Addr) (n : BitVec 4)

/-! ### Control flow -/

theorem exec_ret (h : 0 < s.SP.val) : exec .ret s = .next (s.pop.setPc ((s.top h).setWidth 16 + 2)) := by
  simp [exec, execRet, h]
theorem exec_ret_empty (h : s.SP.val = 0) : exec .ret s = .fault .stackUnderflow := by
  simp [exec, execRet, h, raise]
theorem exec_jp : exec (.jp nnn) s = .next (s.setPc (nnn.setWidth 16)) := rfl
theorem exec_call (h : s.SP.val < 16) :
    exec (.call nnn) s = .next ((s.push (s.pc.setWidth 12) h).setPc (nnn.setWidth 16)) := by
  simp [exec, execCall, h, addrOperand]
theorem exec_call_full (h : s.SP.val = 16) : exec (.call nnn) s = .fault .stackOverflow := by
  simp [exec, execCall, h, raise]
theorem exec_seImm : exec (.seImm x nn) s = .next (s.skipIf (s.getV x == nn)) := rfl
theorem exec_sneImm : exec (.sneImm x nn) s = .next (s.skipIf (s.getV x != nn)) := rfl
theorem exec_seReg : exec (.seReg x y) s = .next (s.skipIf (s.getV x == s.getV y)) := rfl
theorem exec_sneReg : exec (.sneReg x y) s = .next (s.skipIf (s.getV x != s.getV y)) := rfl
theorem exec_jpV0 (h : nnn.toNat + (s.getV 0).toNat ≤ 0xFFF) :
    exec (.jpV0 nnn) s = .next (s.setPc (BitVec.ofNat 16 (nnn.toNat + (s.getV 0).toNat))) :=
  if_neg (Nat.not_lt.2 h)
theorem exec_jpV0_out (h : nnn.toNat + (s.getV 0).toNat > 0xFFF) :
    exec (.jpV0 nnn) s = .fault (.addressOutOfRange (nnn.toNat + (s.getV 0).toNat)) := if_pos h

/-! ### Register and ALU -/

theorem exec_ldImm : exec (.ldImm x nn) s = .next (s.setV x nn).advance := rfl
theorem exec_addImm : exec (.addImm x nn) s = .next (s.setV x (s.getV x + nn)).advance := rfl
theorem exec_ldReg : exec (.ldReg x y) s = .next (s.setV x (s.getV y)).advance := rfl
theorem exec_orReg : exec (.orReg x y) s = .next (s.setV x (s.getV x ||| s.getV y)).advance := rfl
theorem exec_andReg : exec (.andReg x y) s = .next (s.setV x (s.getV x &&& s.getV y)).advance := rfl
theorem exec_xorReg : exec (.xorReg x y) s = .next (s.setV x (s.getV x ^^^ s.getV y)).advance := rfl
theorem exec_addReg : exec (.addReg x y) s =
    .next ((s.setV x (s.getV x + s.getV y)).setFlag (carry (s.getV x) (s.getV y))).advance := rfl
theorem exec_subReg : exec (.subReg x y) s =
    .next ((s.setV x (s.getV x - s.getV y)).setFlag (noBorrow (s.getV x) (s.getV y))).advance := rfl
theorem exec_shr : exec (.shr x y) s =
    .next ((s.setV x (s.getV x >>> 1)).setFlag (shiftedOutLow (s.getV x))).advance := rfl
theorem exec_subnReg : exec (.subnReg x y) s =
    .next ((s.setV x (s.getV y - s.getV x)).setFlag (noBorrow (s.getV y) (s.getV x))).advance := rfl
theorem exec_shl : exec (.shl x y) s =
    .next ((s.setV x (s.getV x <<< 1)).setFlag (shiftedOutHigh (s.getV x))).advance := rfl
theorem exec_rnd : exec (.rnd x nn) s = .next (s.consumeDraw.setV x (s.nextDraw &&& nn)).advance := rfl

/-! ### Index and memory -/

theorem exec_ldI : exec (.ldI nnn) s = .next (s.setI (nnn.setWidth 16)).advance := rfl
theorem exec_addI (h : s.I.toNat + (s.getV x).toNat ≤ 0xFFF) :
    exec (.addI x) s = .next (s.setI (BitVec.ofNat 16 (s.I.toNat + (s.getV x).toNat))).advance :=
  if_neg (Nat.not_lt.2 h)
theorem exec_addI_out (h : s.I.toNat + (s.getV x).toNat > 0xFFF) :
    exec (.addI x) s = .fault (.addressOutOfRange (s.I.toNat + (s.getV x).toNat)) := if_pos h
theorem exec_ldF (h : (s.getV x).toNat ≤ 0xF) :
    exec (.ldF x) s = .next (s.setI (BitVec.ofNat 16 (glyphAddress (s.getV x).toNat))).advance := by
  simp [exec, execLdF, (indexFault_eq_none _).2 h]
theorem exec_ldF_out (h : (s.getV x).toNat > 0xF) :
    exec (.ldF x) s = .fault (.operandOutOfRange (s.getV x)) := by
  simp [exec, execLdF, (indexFault_eq_some _ _).2 ⟨h, rfl⟩, raise]
theorem exec_ldB : exec (.ldB x) s = storeAtIndex (bcdDigits (s.getV x)) s := rfl
theorem exec_storeRegs : exec (.storeRegs x) s = storeAtIndex (s.getVs x) s := rfl
theorem exec_loadRegs (h : s.I.toNat + x.toNat ≤ 0xFFF) :
    exec (.loadRegs x) s = .next (s.setVs 0 (s.readBytes s.I.toNat (x.toNat + 1))).advance := by
  simp [exec, execLoadRegs, indexBase, (spanFault_eq_none _ _).2 (.inr (by omega : s.I.toNat + (x.toNat + 1) ≤ 0x1000))]
theorem exec_loadRegs_out (h : s.I.toNat + x.toNat > 0xFFF) :
    exec (.loadRegs x) s = .fault (.addressOutOfRange (s.I.toNat + x.toNat)) := by
  have : spanFault s.I.toNat (x.toNat + 1) = some (.addressOutOfRange (s.I.toNat + x.toNat)) :=
    (spanFault_eq_some _ _ _).2 ⟨by omega, by omega, by congr 1⟩
  simp [exec, execLoadRegs, indexBase, this, raise]

/-- A store at `I` whose bytes are all addressable (R160). -/
theorem storeAtIndex_next (vs : List Byte) (h : s.I.toNat + vs.length ≤ 0x1000) :
    storeAtIndex vs s = .next (s.writeBytes s.I.toNat vs).advance := by
  simp [storeAtIndex, indexBase, (spanFault_eq_none _ _).2 (.inr h)]
/-- A store at `I` that reaches above 0xFFF (R160). -/
theorem storeAtIndex_out (vs : List Byte) (h0 : vs.length ≠ 0) (h : s.I.toNat + vs.length > 0x1000) :
    storeAtIndex vs s = .fault (.addressOutOfRange (s.I.toNat + vs.length - 1)) := by
  have : spanFault s.I.toNat vs.length = some (.addressOutOfRange (s.I.toNat + vs.length - 1)) :=
    (spanFault_eq_some _ _ _).2 ⟨h0, by omega, rfl⟩
  simp [storeAtIndex, indexBase, this, raise]

/-! ### Display -/

theorem exec_cls : exec .cls s = .next (s.setFb Screen.clear).advance := rfl
theorem exec_drw (h : n.toNat = 0 ∨ s.I.toNat + n.toNat ≤ 0x1000) :
    exec (.drw x y n) s =
      .next ((s.setFb (drawSprite (startColumn x s) (startRow y s) (s.readBytes s.I.toNat n.toNat) s.fb).fb).setFlag
        (drawSprite (startColumn x s) (startRow y s) (s.readBytes s.I.toNat n.toNat) s.fb).collision).advance := by
  simp [exec, execDrw, indexBase, (spanFault_eq_none _ _).2 h]
theorem exec_drw_out (h0 : n.toNat ≠ 0) (h : s.I.toNat + n.toNat > 0x1000) :
    exec (.drw x y n) s = .fault (.addressOutOfRange (s.I.toNat + n.toNat - 1)) := by
  have : spanFault s.I.toNat n.toNat = some (.addressOutOfRange (s.I.toNat + n.toNat - 1)) :=
    (spanFault_eq_some _ _ _).2 ⟨h0, by omega, rfl⟩
  simp [exec, execDrw, indexBase, this, raise]

/-! ### Keys and timers -/

theorem exec_skp (h : (s.getV x).toNat ≤ 0xF) : exec (.skp x) s = .next (s.skipIf (keyPressed x s)) := by
  simp [exec, execSkp, (indexFault_eq_none _).2 h]
theorem exec_skp_out (h : (s.getV x).toNat > 0xF) : exec (.skp x) s = .fault (.operandOutOfRange (s.getV x)) := by
  simp [exec, execSkp, (indexFault_eq_some _ _).2 ⟨h, rfl⟩, raise]
theorem exec_sknp (h : (s.getV x).toNat ≤ 0xF) : exec (.sknp x) s = .next (s.skipIf (!keyPressed x s)) := by
  simp [exec, execSknp, (indexFault_eq_none _).2 h]
theorem exec_sknp_out (h : (s.getV x).toNat > 0xF) : exec (.sknp x) s = .fault (.operandOutOfRange (s.getV x)) := by
  simp [exec, execSknp, (indexFault_eq_some _ _).2 ⟨h, rfl⟩, raise]
theorem exec_ldVxDT : exec (.ldVxDT x) s = .next (s.setV x s.DT).advance := rfl
theorem exec_ldVxK : exec (.ldVxK x) s = .next (s.setRun (.awaitingKey x none)) := rfl
theorem exec_ldDTVx : exec (.ldDTVx x) s = .next (s.setDT (s.getV x)).advance := rfl
theorem exec_ldSTVx : exec (.ldSTVx x) s = .next (s.setST (s.getV x)).advance := rfl

end

/-! ### The step -/

theorem step_idle {s : State} {x : Reg} (h : s.run = .awaitingKey x none) : step s = .next s := by
  simp [step, h]
theorem step_complete {s : State} {x : Reg} {k : Key} (h : s.run = .awaitingKey x (some k)) :
    step s = .next (s.completeWait x k) := by
  simp [step, h]
theorem step_running {s : State} (h : s.run = .running) (hp : s.pc.toNat ≤ 0xFFE) :
    step s = match decodeWord s.fetchWord with
      | some i => exec i s
      | none => .fault (.invalidOpcode s.fetchWord) := by
  cases hd : decodeWord s.fetchWord <;> simp [step, h, State.fetchable, hp, raise, hd]
theorem step_unfetchable {s : State} (h : s.run = .running) (hp : s.pc.toNat > 0xFFE) :
    step s = .fault (.addressOutOfRange s.pc.toNat) := by
  have : ¬ s.pc.toNat ≤ 0xFFE := by omega
  simp [step, h, State.fetchable, this, raise]

/-- Everything a successful step can have done (R103). -/
theorem step_next_cases {s t : State} (h : step s = .next t) :
    (∃ x, s.run = .awaitingKey x none ∧ t = s) ∨
    (∃ x k, s.run = .awaitingKey x (some k) ∧ t = s.completeWait x k) ∨
    (s.run = .running ∧ s.pc.toNat ≤ 0xFFE ∧ ∃ i, decodeWord s.fetchWord = some i ∧ exec i s = .next t) := by
  rcases hr : s.run with _ | ⟨x, _ | k⟩
  · refine .inr (.inr ⟨rfl, ?_⟩)
    by_cases hp : s.pc.toNat ≤ 0xFFE
    · rw [step_running hr hp] at h
      cases hd : decodeWord s.fetchWord with
      | none => simp [hd] at h
      | some i => exact ⟨hp, i, rfl, by simpa [hd] using h⟩
    · rw [step_unfetchable hr (by omega)] at h; cases h
  · rw [step_idle hr] at h; injection h with h; exact .inl ⟨x, rfl, h.symm⟩
  · rw [step_complete hr] at h; injection h with h; exact .inr (.inl ⟨x, k, rfl, h.symm⟩)

end Sys2Proof.Machine
end

