-- ==== Sys2Proof/Laws/PerInstr.lean ====
section
/-! SUPPORT. Statements about every instruction as syntax, one lemma a constructor. Family EncodesInRow: the word the
encoder gives an instruction matches the row of 30_encoding.md R74 that has the instruction's pattern as its name. -/

namespace Sys2Proof.Laws.EncodesInRow

/-- The encoded word, masked, is the row's match value. -/
def Statement (i : Instr) : Prop :=
  ∃ r : OpRow, i.row? = some r ∧ encode i &&& r.mask = r.pattern

theorem cls : Statement (.cls) :=
  ⟨⟨"00E0", 0x00E0#16, 0xFFFF#16⟩, rfl, by decide⟩
theorem ret : Statement (.ret) :=
  ⟨⟨"00EE", 0x00EE#16, 0xFFFF#16⟩, rfl, by decide⟩
theorem jp (nnn : Addr) : Statement (.jp nnn) :=
  ⟨⟨"1NNN", 0x1000#16, 0xF000#16⟩, rfl, by rw [encode, encodeNNN_mask]; decide⟩
theorem call (nnn : Addr) : Statement (.call nnn) :=
  ⟨⟨"2NNN", 0x2000#16, 0xF000#16⟩, rfl, by rw [encode, encodeNNN_mask]; decide⟩
theorem seImm (x : Reg) (nn : Byte) : Statement (.seImm x nn) :=
  ⟨⟨"3XNN", 0x3000#16, 0xF000#16⟩, rfl, by rw [encode, encodeXNN_mask]; decide⟩
theorem sneImm (x : Reg) (nn : Byte) : Statement (.sneImm x nn) :=
  ⟨⟨"4XNN", 0x4000#16, 0xF000#16⟩, rfl, by rw [encode, encodeXNN_mask]; decide⟩
theorem seReg (x : Reg) (y : Reg) : Statement (.seReg x y) :=
  ⟨⟨"5XY0", 0x5000#16, 0xF00F#16⟩, rfl, by rw [encode, encodeXY_mask]; decide⟩
theorem ldImm (x : Reg) (nn : Byte) : Statement (.ldImm x nn) :=
  ⟨⟨"6XNN", 0x6000#16, 0xF000#16⟩, rfl, by rw [encode, encodeXNN_mask]; decide⟩
theorem addImm (x : Reg) (nn : Byte) : Statement (.addImm x nn) :=
  ⟨⟨"7XNN", 0x7000#16, 0xF000#16⟩, rfl, by rw [encode, encodeXNN_mask]; decide⟩
theorem ldReg (x : Reg) (y : Reg) : Statement (.ldReg x y) :=
  ⟨⟨"8XY0", 0x8000#16, 0xF00F#16⟩, rfl, by rw [encode, encodeXY_mask]; decide⟩
theorem orReg (x : Reg) (y : Reg) : Statement (.orReg x y) :=
  ⟨⟨"8XY1", 0x8001#16, 0xF00F#16⟩, rfl, by rw [encode, encodeXY_mask]; decide⟩
theorem andReg (x : Reg) (y : Reg) : Statement (.andReg x y) :=
  ⟨⟨"8XY2", 0x8002#16, 0xF00F#16⟩, rfl, by rw [encode, encodeXY_mask]; decide⟩
theorem xorReg (x : Reg) (y : Reg) : Statement (.xorReg x y) :=
  ⟨⟨"8XY3", 0x8003#16, 0xF00F#16⟩, rfl, by rw [encode, encodeXY_mask]; decide⟩
theorem addReg (x : Reg) (y : Reg) : Statement (.addReg x y) :=
  ⟨⟨"8XY4", 0x8004#16, 0xF00F#16⟩, rfl, by rw [encode, encodeXY_mask]; decide⟩
theorem subReg (x : Reg) (y : Reg) : Statement (.subReg x y) :=
  ⟨⟨"8XY5", 0x8005#16, 0xF00F#16⟩, rfl, by rw [encode, encodeXY_mask]; decide⟩
theorem shr (x : Reg) (y : Reg) : Statement (.shr x y) :=
  ⟨⟨"8XY6", 0x8006#16, 0xF00F#16⟩, rfl, by rw [encode, encodeXY_mask]; decide⟩
theorem subnReg (x : Reg) (y : Reg) : Statement (.subnReg x y) :=
  ⟨⟨"8XY7", 0x8007#16, 0xF00F#16⟩, rfl, by rw [encode, encodeXY_mask]; decide⟩
theorem shl (x : Reg) (y : Reg) : Statement (.shl x y) :=
  ⟨⟨"8XYE", 0x800E#16, 0xF00F#16⟩, rfl, by rw [encode, encodeXY_mask]; decide⟩
theorem sneReg (x : Reg) (y : Reg) : Statement (.sneReg x y) :=
  ⟨⟨"9XY0", 0x9000#16, 0xF00F#16⟩, rfl, by rw [encode, encodeXY_mask]; decide⟩
theorem ldI (nnn : Addr) : Statement (.ldI nnn) :=
  ⟨⟨"ANNN", 0xA000#16, 0xF000#16⟩, rfl, by rw [encode, encodeNNN_mask]; decide⟩
theorem jpV0 (nnn : Addr) : Statement (.jpV0 nnn) :=
  ⟨⟨"BNNN", 0xB000#16, 0xF000#16⟩, rfl, by rw [encode, encodeNNN_mask]; decide⟩
theorem rnd (x : Reg) (nn : Byte) : Statement (.rnd x nn) :=
  ⟨⟨"CXNN", 0xC000#16, 0xF000#16⟩, rfl, by rw [encode, encodeXNN_mask]; decide⟩
theorem drw (x : Reg) (y : Reg) (n : BitVec 4) : Statement (.drw x y n) :=
  ⟨⟨"DXYN", 0xD000#16, 0xF000#16⟩, rfl, by rw [encode, encodeXYN_mask]; decide⟩
theorem skp (x : Reg) : Statement (.skp x) :=
  ⟨⟨"EX9E", 0xE09E#16, 0xF0FF#16⟩, rfl, by rw [encode, encodeX_mask]; decide⟩
theorem sknp (x : Reg) : Statement (.sknp x) :=
  ⟨⟨"EXA1", 0xE0A1#16, 0xF0FF#16⟩, rfl, by rw [encode, encodeX_mask]; decide⟩
theorem ldVxDT (x : Reg) : Statement (.ldVxDT x) :=
  ⟨⟨"FX07", 0xF007#16, 0xF0FF#16⟩, rfl, by rw [encode, encodeX_mask]; decide⟩
theorem ldVxK (x : Reg) : Statement (.ldVxK x) :=
  ⟨⟨"FX0A", 0xF00A#16, 0xF0FF#16⟩, rfl, by rw [encode, encodeX_mask]; decide⟩
theorem ldDTVx (x : Reg) : Statement (.ldDTVx x) :=
  ⟨⟨"FX15", 0xF015#16, 0xF0FF#16⟩, rfl, by rw [encode, encodeX_mask]; decide⟩
theorem ldSTVx (x : Reg) : Statement (.ldSTVx x) :=
  ⟨⟨"FX18", 0xF018#16, 0xF0FF#16⟩, rfl, by rw [encode, encodeX_mask]; decide⟩
theorem addI (x : Reg) : Statement (.addI x) :=
  ⟨⟨"FX1E", 0xF01E#16, 0xF0FF#16⟩, rfl, by rw [encode, encodeX_mask]; decide⟩
theorem ldF (x : Reg) : Statement (.ldF x) :=
  ⟨⟨"FX29", 0xF029#16, 0xF0FF#16⟩, rfl, by rw [encode, encodeX_mask]; decide⟩
theorem ldB (x : Reg) : Statement (.ldB x) :=
  ⟨⟨"FX33", 0xF033#16, 0xF0FF#16⟩, rfl, by rw [encode, encodeX_mask]; decide⟩
theorem storeRegs (x : Reg) : Statement (.storeRegs x) :=
  ⟨⟨"FX55", 0xF055#16, 0xF0FF#16⟩, rfl, by rw [encode, encodeX_mask]; decide⟩
theorem loadRegs (x : Reg) : Statement (.loadRegs x) :=
  ⟨⟨"FX65", 0xF065#16, 0xF0FF#16⟩, rfl, by rw [encode, encodeX_mask]; decide⟩

end Sys2Proof.Laws.EncodesInRow
end

