-- ==== Sys2Proof/Tests/Slice0.lean ====
section
/-! SUPPORT. The model's own tests. Words are written out from the encodings of 30_encoding.md R74, expected results from
95_test_vectors.md (the vector's section, or S<n> of its section 1, in the comment). Last, the witnesses: for every
obligation with hypotheses, concrete inputs that meet them. -/

namespace Sys2Proof.Tests

open Sys2Proof.Machine Sys2Proof.Claims

/-! ## Small states -/

/-- The creation state with the word at 0x200 and the listed registers set. -/
def on (w : Word) (vs : List (Reg × Byte)) : State :=
  vs.foldl (fun s p => s.setV p.1 p.2) (State.reset.writeBytes 0x200 [highByte w, lowByte w])

/-- The same with pc elsewhere and the word there. -/
def onAt (pc : Word) (w : Word) (vs : List (Reg × Byte)) : State :=
  vs.foldl (fun s p => s.setV p.1 p.2) ((State.reset.setPc pc).writeBytes pc.toNat [highByte w, lowByte w])

/-- The next state, where there is one. -/
def nextOf : Result → Option State
  | .next t => some t
  | _ => none

/-- The error, where there is one. -/
def faultOf : Result → Option Fault
  | .fault e => some e
  | _ => none

/-- The state a step leaves. -/
def after (s : State) : State := stateAfter s (step s)

/-- The error a step answers. -/
def err (s : State) : Option Fault := faultOf (step s)

theorem next_of_isSome {r : Result} (h : (nextOf r).isSome = true) : ∃ t, r = .next t := by
  cases r with
  | next t => exact ⟨t, rfl⟩
  | fault e => cases h
  | refused e => cases h

theorem fault_of_eq {r : Result} {e : Fault} (h : faultOf r = some e) : r = .fault e := by
  cases r with
  | next t => cases h
  | fault e' => cases h; rfl
  | refused e' => cases h

/-! ## WellFormed refuses what R75 lists, one word a family -/

theorem test_wf_refuses_0NNN : wellFormedWord 0x0123 = false ∧ decodeWord 0x0123 = none := by decide
theorem test_wf_refuses_5XYk : wellFormedWord 0x5121 = false ∧ decodeWord 0x5121 = none := by decide
theorem test_wf_refuses_8XYk : wellFormedWord 0x800F = false ∧ decodeWord 0x800F = none := by decide
theorem test_wf_refuses_9XYk : wellFormedWord 0x9121 = false ∧ decodeWord 0x9121 = none := by decide
theorem test_wf_refuses_EXkk : wellFormedWord 0xE0A2 = false ∧ decodeWord 0xE0A2 = none := by decide
theorem test_wf_refuses_FXkk : wellFormedWord 0xF0FF = false ∧ decodeWord 0xF0FF = none := by decide
/-- R74 has 34 rows, in the order of the constructors. -/
theorem test_table_rows : opcodeTable.length = 34 ∧ opcodeTable.all (fun r => wellFormedWord r.pattern) = true := by decide
theorem test_truncated : decode [0x60] = .truncated ∧ decode [] = .truncated := by decide
/-- The host's numbering: nbits cuts the word. -/
theorem test_table_word : decodeTableWord 16 0x8124 = some (.addReg 1 2) ∧ decodeTableWord 16 0x0123 = none := by decide

/-! ## Every constructor's decoding, from a word written out by R71, R72, R74: op, then x, y, n or nn or nnn -/

theorem test_decode_fixed : decodeWord 0x00E0 = some .cls ∧ decodeWord 0x00EE = some .ret := by decide
theorem test_decode_nnn :
    decodeWord 0x1234 = some (.jp 0x234) ∧ decodeWord 0x2210 = some (.call 0x210) ∧
    decodeWord 0xA9C3 = some (.ldI 0x9C3) ∧ decodeWord 0xBF01 = some (.jpV0 0xF01) := by decide
theorem test_decode_xnn :
    decodeWord 0x3405 = some (.seImm 4 0x05) ∧ decodeWord 0x4A96 = some (.sneImm 0xA 0x96) ∧
    decodeWord 0x6A42 = some (.ldImm 0xA 0x42) ∧ decodeWord 0x7F01 = some (.addImm 0xF 0x01) ∧
    decodeWord 0xC30F = some (.rnd 3 0x0F) := by decide
theorem test_decode_xy :
    decodeWord 0x5120 = some (.seReg 1 2) ∧ decodeWord 0x9DE0 = some (.sneReg 0xD 0xE) ∧
    decodeWord 0x8120 = some (.ldReg 1 2) ∧ decodeWord 0x83A1 = some (.orReg 3 0xA) ∧
    decodeWord 0x8B42 = some (.andReg 0xB 4) ∧ decodeWord 0x8563 = some (.xorReg 5 6) := by decide
theorem test_decode_xy_flags :
    decodeWord 0x8124 = some (.addReg 1 2) ∧ decodeWord 0x87C5 = some (.subReg 7 0xC) ∧
    decodeWord 0x8216 = some (.shr 2 1) ∧ decodeWord 0x8967 = some (.subnReg 9 6) ∧
    decodeWord 0x8F0E = some (.shl 0xF 0) := by decide
theorem test_decode_xyn : decodeWord 0xD125 = some (.drw 1 2 5) ∧ decodeWord 0xDFE0 = some (.drw 0xF 0xE 0) := by decide
theorem test_decode_keys : decodeWord 0xE59E = some (.skp 5) ∧ decodeWord 0xECA1 = some (.sknp 0xC) := by decide
theorem test_decode_misc :
    decodeWord 0xF507 = some (.ldVxDT 5) ∧ decodeWord 0xF30A = some (.ldVxK 3) ∧
    decodeWord 0xF115 = some (.ldDTVx 1) ∧ decodeWord 0xFB18 = some (.ldSTVx 0xB) ∧
    decodeWord 0xF21E = some (.addI 2) ∧ decodeWord 0xFE29 = some (.ldF 0xE) ∧
    decodeWord 0xF633 = some (.ldB 6) ∧ decodeWord 0xFD55 = some (.storeRegs 0xD) ∧
    decodeWord 0xF265 = some (.loadRegs 2) := by decide

/-! ## Control flow (95_test_vectors.md 2.2) -/

theorem test_jp : (after (on 0x1234 [])).pc = 0x234 := by decide
theorem test_call : (after (onAt 0x204 0x2210 [])).pc = 0x210 ∧ (after (onAt 0x204 0x2210 [])).SP = 1 ∧
    (after (onAt 0x204 0x2210 [])).stack[0] = 0x204 := by decide
theorem test_call_full : err { on 0x2300 [] with SP := 16 } = some .stackOverflow := by decide
/-- A return inside a subroutine called from 0x204. -/
def inCall : State := { onAt 0x212 0x00EE [] with SP := 1, stack := State.reset.stack.set 0 0x204 }
theorem test_ret : (after inCall).pc = 0x206 ∧ (after inCall).SP = 0 ∧ (after inCall).stack[0] = 0x204 := by decide
theorem test_ret_empty : err (on 0x00EE []) = some .stackUnderflow := by decide
theorem test_seImm : (after (onAt 0x208 0x3305 [(3, 5)])).pc = 0x20C ∧ (after (onAt 0x208 0x3306 [(3, 5)])).pc = 0x20A := by decide
theorem test_sneImm : (after (onAt 0x208 0x4306 [(3, 5)])).pc = 0x20C ∧ (after (onAt 0x208 0x4305 [(3, 5)])).pc = 0x20A := by decide
theorem test_seReg : (after (onAt 0x300 0x5120 [(1, 0x7F), (2, 0x7F)])).pc = 0x304 ∧
    (after (onAt 0x300 0x5120 [(1, 0x7F)])).pc = 0x302 := by decide
theorem test_sneReg : (after (onAt 0x300 0x9120 [(1, 1), (2, 2)])).pc = 0x304 ∧ (after (onAt 0x300 0x9110 [(1, 1)])).pc = 0x302 := by decide
theorem test_jpV0 : (after (on 0xBF00 [(0, 0xFF)])).pc = 0xFFF := by decide
theorem test_jpV0_out : err (on 0xBF01 [(0, 0xFF)]) = some (.addressOutOfRange 0x1000) := by decide

/-! ## Register and ALU (2.1; S2, S3) -/

/-- V1 and VF after one step. -/
def v1f (s : State) : Byte × Byte := ((after s).getV 1, (after s).getV 0xF)

theorem test_ldImm : (after (on 0x6A42 [])).getV 0xA = 0x42 ∧ (after (on 0x6A42 [])).pc = 0x202 := by decide
theorem test_addImm : (after (on 0x7001 [(0, 0xFF), (0xF, 7)])).getV 0 = 0 ∧ (after (on 0x7001 [(0, 0xFF), (0xF, 7)])).getV 0xF = 7 := by decide
theorem test_ldReg : v1f (on 0x8120 [(2, 0x9C)]) = (0x9C, 0) := by decide
theorem test_orReg : v1f (on 0x8121 [(1, 0x0F), (2, 0xF0), (0xF, 0x55)]) = (0xFF, 0x55) := by decide
theorem test_andReg : v1f (on 0x8122 [(1, 0x3C), (2, 0x0F)]) = (0x0C, 0) := by decide
theorem test_xorReg : v1f (on 0x8123 [(1, 0xFF), (2, 0x0F)]) = (0xF0, 0) := by decide
theorem test_addReg : v1f (on 0x8124 [(1, 250), (2, 10)]) = (4, 1) ∧ v1f (on 0x8124 [(1, 0xFF)]) = (0xFF, 0) := by decide
theorem test_addReg_flag : (after (on 0x8F14 [(0xF, 0x10), (1, 0x20)])).getV 0xF = 0 ∧
    v1f (on 0x81F4 [(1, 0xFF), (0xF, 1)]) = (0, 1) := by decide
theorem test_subReg : v1f (on 0x8125 [(1, 10), (2, 250)]) = (16, 0) ∧ v1f (on 0x8125 [(1, 250), (2, 10)]) = (240, 1) := by decide
theorem test_subReg_equal : v1f (on 0x8125 [(1, 5), (2, 5)]) = (0, 1) ∧ (after (on 0x8F15 [(0xF, 5), (1, 3)])).getV 0xF = 1 := by decide
theorem test_shr : v1f (on 0x8106 [(1, 5)]) = (2, 1) ∧ v1f (on 0x8126 [(1, 2), (2, 0xFF)]) = (1, 0) := by decide
theorem test_shr_flag : (after (on 0x8F06 [(0xF, 3)])).getV 0xF = 1 := by decide
theorem test_subnReg : v1f (on 0x8127 [(1, 10), (2, 250)]) = (240, 1) ∧ v1f (on 0x8127 [(1, 250), (2, 10)]) = (16, 0) := by decide
theorem test_shl : v1f (on 0x810E [(1, 0x81)]) = (2, 1) ∧ v1f (on 0x810E [(1, 0x40)]) = (0x80, 0) := by decide
theorem test_shl_flag : (after (on 0x8F0E [(0xF, 0x80)])).getV 0xF = 1 := by decide
theorem test_rnd : (after (supplyDraw 0xAB (on 0xC30F []))).getV 3 = 0x0B ∧ (after (supplyDraw 0xAB (on 0xC30F []))).draws = [] := by decide

/-! ## Index and memory (2.3; S7) -/

theorem test_ldI : (after (on 0xA300 [])).I = 0x300 := by decide
theorem test_addI : (after ((on 0xF01E [(0, 1)]).setI 0xFFE)).I = 0xFFF := by decide
theorem test_addI_out : err ((on 0xF01E [(0, 2)]).setI 0xFFE) = some (.addressOutOfRange 0x1000) := by decide
theorem test_ldF : (after (on 0xF029 [(0, 0xF)])).I = 0x09B := by decide
theorem test_ldF_out : err (on 0xF029 [(0, 0x10)]) = some (.operandOutOfRange 0x10) := by decide
theorem test_ldB : (after ((on 0xF033 [(0, 157)]).setI 0x300)).readBytes 0x300 3 = [1, 5, 7] := by decide
theorem test_ldB_out : err ((on 0xF033 [(0, 157)]).setI 0xFFE) = some (.addressOutOfRange 0x1000) := by decide
theorem test_storeRegs : (after ((on 0xF255 [(0, 7), (1, 8), (2, 9), (3, 6)]).setI 0x300)).readBytes 0x300 4 = [7, 8, 9, 0] := by decide
theorem test_storeRegs_top : (after ((on 0xF055 [(0, 9)]).setI 0xFFF)).readByte 0xFFF = 9 ∧
    err ((on 0xF155 []).setI 0xFFF) = some (.addressOutOfRange 0x1000) := by decide
/-- Glyph 0 of the font, five bytes at 0x050. -/
theorem test_loadRegs : (after ((on 0xF465 [(5, 3)]).setI 0x050)).getVs 5 = [0xF0, 0x90, 0x90, 0x90, 0xF0, 3] := by decide
theorem test_loadRegs_out : err ((on 0xF165 []).setI 0xFFF) = some (.addressOutOfRange 0x1000) := by decide

/-! ## Display (2.4) -/

/-- The columns of the cells that are on in row `y`. -/
def columns (y : Nat) (s : State) : List Nat :=
  (((s.fb.toList[y]?).map Vector.toList).getD []).zipIdx.filterMap (fun p => if p.1 then some p.2 else none)

/-- The rows that have a cell on. -/
def rows (s : State) : List Nat :=
  s.fb.toList.zipIdx.filterMap (fun p => if p.1.toList.any id then some p.2 else none)

theorem test_drw_glyph :
    (let s := after ((on 0xD125 [(1, 10), (2, 5)]).setI 0x050)
     (rows s, columns 5 s, columns 6 s, columns 9 s)) =
    ([5, 6, 7, 8, 9], [10, 11, 12, 13], [10, 13], [10, 11, 12, 13]) := by decide +kernel
theorem test_drw_wraps :
    (let s := after ((on 0xD121 [(1, 0x7E), (2, 0x45)]).setI 0x050)
     (rows s, columns 5 s)) = ([5], [0, 1, 62, 63]) := by decide +kernel
/-- One cell is on before the draw: it goes off, and VF is 1. -/
theorem test_drw_collision :
    (let s := after (((on 0xD121 [(1, 10), (2, 5)]).setI 0x050).setFb (State.reset.fb.toggle 10 5))
     (columns 5 s, s.getV 0xF)) = ([11, 12, 13], 1) := by decide +kernel
theorem test_drw_edges : (after (on 0xD120 [(0xF, 9)])).getV 0xF = 0 ∧
    err ((on 0xD122 []).setI 0xFFF) = some (.addressOutOfRange 0x1000) := by decide
theorem test_cls : rows (after ((on 0x00E0 []).setFb (State.reset.fb.toggle 63 31))) = [] := by decide +kernel

/-! ## Keys, timers, host ports (2.5, 2.6) -/

theorem test_skp : (after ((onAt 0x220 0xE09E [(0, 3)]).setKey 3 true)).pc = 0x224 ∧ (after (onAt 0x220 0xE09E [(0, 3)])).pc = 0x222 := by decide
theorem test_skp_out : err (on 0xE09E [(0, 0x10)]) = some (.operandOutOfRange 0x10) := by decide
theorem test_sknp : (after ((onAt 0x220 0xE0A1 [(0, 3)]).setKey 3 true)).pc = 0x222 ∧ (after (onAt 0x220 0xE0A1 [(0, 3)])).pc = 0x224 := by decide
theorem test_ldVxDT : (after ((on 0xF507 []).setDT 0x3C)).getV 5 = 0x3C := by decide
theorem test_ldDTVx : (after (on 0xF115 [(1, 0x3C)])).DT = 0x3C := by decide
theorem test_ldSTVx : (after (on 0xF118 [(1, 2)])).ST = 2 := by decide
theorem test_ldVxK : (after (onAt 0x240 0xF30A [])).run = .awaitingKey 3 none ∧ (after (onAt 0x240 0xF30A [])).pc = 0x240 := by decide
/-- Waiting in V3 with key 7 latched, at 0x240. -/
def latched : State := (State.reset.setPc 0x240).setRun (.awaitingKey 3 (some 7))
theorem test_wait_completes : (after latched).getV 3 = 7 ∧ (after latched).pc = 0x242 ∧ (after latched).run = .running := by decide
theorem test_tick : (tickTimers (State.reset.setDT 5)).DT = 4 ∧ (tickTimers (State.reset.setST 1)).ST = 0 ∧ (tickTimers State.reset).DT = 0 := by decide
theorem test_press : (pressKey 7 (State.reset.setRun (.awaitingKey 3 none))).run = .awaitingKey 3 (some 7) ∧
    (pressKey 2 latched).run = .awaitingKey 3 (some 7) ∧ (pressKey 2 latched).getKey 2 = true := by decide
theorem test_release : (releaseKey 7 (latched.setKey 7 true)).getKey 7 = false ∧ (releaseKey 7 latched).run = latched.run := by decide
theorem test_load : (stateAfter State.reset (loadProgram [0x60, 5, 0x70, 3] State.reset)).readBytes 0x200 5 = [0x60, 5, 0x70, 3, 0] := by decide
theorem test_load_too_large : faultOf (loadProgram (List.replicate 3585 0) State.reset) = some (.programTooLarge 3585) := by
  unfold loadProgram
  rw [List.length_replicate]
  rfl
theorem test_fetch_top : err (State.reset.setPc 0xFFF) = some (.addressOutOfRange 0xFFF) ∧ (after (onAt 0xFFE 0x6001 [])).pc = 0x1000 := by decide
theorem test_fetch_odd : (after (onAt 0x201 0x6007 [])).getV 0 = 7 := by decide
/-- R36: at creation, with no program loaded. -/
theorem test_creation_step : err State.reset = some (.invalidOpcode 0) := by decide
/-- The model's own port for the host's word: the next step runs it, from a waiting state too. -/
theorem test_withFetchWord : (after (latched.withFetchWord 16 0x6A42)).getV 0xA = 0x42 := by decide

/-! ## Witnesses: the hypotheses of the obligations are met -/

/-- One instruction of every constructor up to 8XYE. -/
def samplesLow : List Instr :=
  [ .cls, .ret, .jp 0x300, .call 0x300, .seImm 1 2, .sneImm 1 2, .seReg 1 2, .ldImm 1 2, .addImm 1 2, .ldReg 1 2, .orReg 1 2
  , .andReg 1 2, .xorReg 1 2, .addReg 1 2, .subReg 1 2, .shr 1 2, .subnReg 1 2, .shl 1 2 ]

/-- One instruction of every other constructor. -/
def samplesHigh : List Instr :=
  [ .sneReg 1 2, .ldI 0x300, .jpV0 0x300, .rnd 1 2, .drw 1 2 3, .skp 1, .sknp 1, .ldVxDT 1, .ldVxK 1, .ldDTVx 1, .ldSTVx 1
  , .addI 1, .ldF 1, .ldB 1, .storeRegs 1, .loadRegs 1 ]

/-- One instruction of every constructor. -/
def samples : List Instr := samplesLow ++ samplesHigh

/-- The creation state with one entry on the stack: every check passes in it. -/
def ready : State := { State.reset with SP := 1 }

/-- They are 34 different patterns, and each family of the frames has some. -/
theorem witness_samples : (samples.map Instr.mnemonic).Nodup ∧ samples.length = 34 ∧
    [Family.control, .alu, .index, .display, .keys].all (fun f => samples.any (fun i => family i = f)) = true := by decide
/-- EveryInstructionCompletesUnlessItsCheckFails, the frames, NextPcOfEveryInstruction: no check fails and a next state is answered. -/
theorem witness_every_instruction_completes :
    samples.all (fun i => errorOf i ready == none && (nextOf (exec i ready)).isSome) = true := by decide +kernel
/-- EveryInstructionCompletesUnlessItsCheckFails, its error side, one instruction a check. -/
theorem witness_checks_fail :
    errorOf .ret State.reset = some .stackUnderflow ∧ errorOf (.call 0) { State.reset with SP := 16 } = some .stackOverflow ∧
    errorOf (.jpV0 0xFFF) (State.reset.setV 0 1) = some (.addressOutOfRange 0x1000) ∧
    errorOf (.drw 1 2 2) (State.reset.setI 0xFFF) = some (.addressOutOfRange 0x1000) ∧
    errorOf (.skp 1) (State.reset.setV 1 16) = some (.operandOutOfRange 16) := by decide
theorem witness_frames :
    (family (.call 0x300) = .control ∧ ∃ t, exec (.call 0x300) ready = .next t) ∧
    (family (.addReg 1 2) = .alu ∧ ∃ t, exec (.addReg 1 2) ready = .next t) ∧
    (family (.storeRegs 2) = .index ∧ ∃ t, exec (.storeRegs 2) ready = .next t) ∧
    (family (.drw 1 2 3) = .display ∧ ∃ t, exec (.drw 1 2 3) ready = .next t) ∧
    (family (.ldDTVx 1) = .keys ∧ ∃ t, exec (.ldDTVx 1) ready = .next t) :=
  ⟨⟨rfl, _, rfl⟩, ⟨rfl, _, rfl⟩, ⟨rfl, next_of_isSome (by decide +kernel)⟩, ⟨rfl, next_of_isSome (by decide +kernel)⟩, ⟨rfl, _, rfl⟩⟩
theorem witness_flags : (samples.filter writesFlag).length = 6 ∧
    (samples.filter writesFlag).all (fun i => (nextOf (exec i ready)).isSome) = true := by decide +kernel
theorem witness_decode : decodeWord 0x8124 = some (.addReg 1 2) ∧
    ∃ r ∈ opcodeTable, (0x8124 : Word) &&& r.mask = r.pattern ∧ r.mnemonic = "8XY4" := by decide
theorem witness_step_runs : CanFetch (onAt 0xFFE 0x8124 []) ∧
    decodeWord (wordAt (onAt 0xFFE 0x8124 []) (onAt 0xFFE 0x8124 []).pc.toNat) = some (.addReg 1 2) :=
  ⟨⟨by decide, by decide⟩, by decide⟩
theorem witness_invalid : CanFetch (on 0x0123 []) ∧ decodeWord (wordAt (on 0x0123 []) (on 0x0123 []).pc.toNat) = none :=
  ⟨⟨by decide, by decide⟩, by decide⟩
theorem witness_unfetchable : (State.reset.setPc 0xFFF).run = .running ∧ (State.reset.setPc 0xFFF).pc.toNat > 0xFFE := by decide
/-- Waiting in V3 with no key yet. -/
def waiting : State := State.reset.setRun (.awaitingKey 3 none)
theorem witness_waiting : waiting.run = .awaitingKey 3 none ∧ latched.run = .awaitingKey 3 (some 7) := by decide
/-- A step answers a next state: an FX0A, a wait, and an ordinary instruction. -/
theorem witness_step_next : (∃ t, step (on 0xF30A []) = .next t) ∧ (∃ t, step waiting = .next t) ∧
    (∃ t, step (on 0x6A42 []) = .next t) ∧ (∃ t, step latched = .next t) :=
  ⟨next_of_isSome (by decide), next_of_isSome (by decide), next_of_isSome (by decide), next_of_isSome (by decide)⟩
theorem witness_step_fault : step State.reset = .fault (.invalidOpcode 0) := fault_of_eq (by decide)
/-- A step that fails, and a schedule of every host operation but a load. -/
theorem witness_error_persists : step State.reset = .fault (.invalidOpcode 0) ∧
    ∀ image, Port.load image ∉ [Port.step, .tick, .press 3, .release 3, .readFb 0 0, .supply 1, .step] :=
  ⟨witness_step_fault, by simp⟩
theorem witness_jump_to_top : (on 0x1FFF []).run = .running ∧ (0xFFF : Addr) = 0xFFF := by decide
theorem witness_call : ({ onAt 0xFFE 0x2300 [] with SP := 15 } : State).SP.val < 16 ∧ (onAt 0xFFE 0x2300 []).pc.toNat ≤ 0xFFE := by decide
theorem witness_ret : inCall.SP.val = (0 : Fin 16).val + 1 ∧ ({ inCall with SP := 16 } : State).SP.val = (15 : Fin 16).val + 1 := by decide
/-- A call at 0x200 of a return at 0x300 (S6). -/
def callRet : State := (on 0x2300 []).writeBytes 0x300 [0x00, 0xEE]
theorem witness_call_ret : CanFetch callRet ∧ callRet.SP.val < 16 ∧ (0x300 : Addr).toNat ≤ 0xFFE ∧
    decodeWord (wordAt callRet callRet.pc.toNat) = some (.call 0x300) ∧
    decodeWord (wordAt callRet (0x300 : Addr).toNat) = some .ret :=
  ⟨⟨by decide, by decide⟩, by decide, by decide, by decide, by decide⟩
theorem witness_jump_offset : (0xF00 : Addr).toNat + ((State.reset.setV 0 0xFF).getV 0).toNat ≤ 0xFFF ∧
    (0xF01 : Addr).toNat + ((State.reset.setV 0 0xFF).getV 0).toNat > 0xFFF := by decide
theorem witness_draws : (supplyDraw 0xAB State.reset).draws = 0xAB :: [] ∧ State.reset.draws = [] := by decide
/-- AddCarry's and the subtractions' flag clause with x = F has no hypothesis; their result clause asks for x other than F. -/
theorem witness_not_flag : (1 : Reg) ≠ VF ∧ (2 : Reg) ≠ VF := by decide
theorem witness_add_index : ((State.reset.setI 0xFFE).setV 0 1).I.toNat + (((State.reset.setI 0xFFE).setV 0 1).getV 0).toNat ≤ 0xFFF ∧
    ((State.reset.setI 0xFFE).setV 0 2).I.toNat + (((State.reset.setI 0xFFE).setV 0 2).getV 0).toNat > 0xFFF := by decide
/-- FX29, EX9E, EXA1: the last digit or key, and the first value above. -/
theorem witness_digit : ((State.reset.setV 0 15).getV 0).toNat ≤ 15 ∧ ((State.reset.setV 0 15).getV 0).toNat = (15 : Key).toNat ∧
    ((State.reset.setV 0 16).getV 0).toNat > 15 := by decide
theorem witness_bcd : (State.reset.setI 0xFFD).I.toNat ≤ 0xFFD ∧ (State.reset.setI 0xFFE).I.toNat > 0xFFD := by decide
theorem witness_span : (State.reset.setI 0xFFF).I.toNat + (0 : Reg).toNat ≤ 0xFFF ∧ (State.reset.setI 0xFFF).I.toNat + (1 : Reg).toNat > 0xFFF ∧
    (0 : Reg).toNat ≤ (0 : Reg).toNat := by decide
/-- DXYN and DXYN twice: no rows; one row at the last address. -/
theorem witness_draw : (1 : Reg) ≠ VF ∧ (2 : Reg) ≠ VF ∧ (0 : BitVec 4).toNat = 0 ∧
    (State.reset.setI 0xFFF).I.toNat + (1 : BitVec 4).toNat ≤ 0x1000 := by decide
theorem witness_key_wait : CanFetch (on 0xF30A []) ∧
    decodeWord (wordAt (on 0xF30A []) (on 0xF30A []).pc.toNat) = some (.ldVxK 3) ∧ (on 0xF30A []).getKey 7 = false :=
  ⟨⟨by decide, by decide⟩, by decide, by decide⟩
theorem witness_press : (waiting.run = .awaitingKey 3 none ∧ waiting.getKey 7 = false) ∧ (latched.setKey 7 true).getKey 7 = true ∧
    latched.run = .awaitingKey 3 (some 7) ∧ State.reset.run = .running := by decide
theorem witness_load : (List.replicate 3584 (0 : Byte)).length ≤ 3584 ∧ (List.replicate 3585 (0 : Byte)).length > 3584 := by
  rw [List.length_replicate, List.length_replicate]; decide
/-- The invariant holds in a state that is not the creation state and whose step answers a next state. -/
theorem witness_inv : (onAt 0xFFE 0x6A42 []).Inv ∧ ∃ t, step (onAt 0xFFE 0x6A42 []) = .next t :=
  ⟨⟨by decide, by decide, by decide, by decide, by decide⟩, next_of_isSome (by decide)⟩
/-- Two different states that differ in a stale entry only, both with a next step. -/
theorem witness_stale : SameButStaleEntries (on 0x6A42 []) { on 0x6A42 [] with stack := State.reset.stack.set 3 5 } ∧
    on 0x6A42 [] ≠ { on 0x6A42 [] with stack := State.reset.stack.set 3 5 } ∧ ∃ t, step (on 0x6A42 []) = .next t :=
  ⟨⟨rfl, by decide⟩, by decide, next_of_isSome (by decide)⟩

end Sys2Proof.Tests
end

section
/-! SUPPORT. The invariant of Sys2Proof/Safety.lean under each operation on the state: what it asks of memory, `I`, `pc`,
`run` and the stack, and that an operation on other components keeps it. -/

namespace Sys2Proof.Machine

variable {s t : State}

/-- The invariant reads five components, so it passes to a state that agrees on them. -/
theorem State.Inv.congr (hi : s.Inv) (hmem : t.memory = s.memory) (hI : t.I = s.I) (hpc : t.pc = s.pc)
    (hrun : t.run = s.run) (hstack : t.stack = s.stack) : t.Inv where
  memory_wf := hmem ▸ hi.memory_wf
  index_addressable := hI ▸ hi.index_addressable
  pc_bounded := hpc ▸ hi.pc_bounded
  waiting_fetchable := by rw [hrun, hpc]; exact hi.waiting_fetchable
  stack_fetchable := by rw [hstack]; exact hi.stack_fetchable

/-! ### Operations on components the invariant does not read -/

theorem State.Inv.setV (hi : s.Inv) (x : Reg) (v : Byte) : (s.setV x v).Inv := hi.congr rfl rfl rfl rfl rfl
theorem State.Inv.setFlag (hi : s.Inv) (p : Bool) : (s.setFlag p).Inv := hi.setV VF (bool01 p)
theorem State.Inv.setVs (hi : s.Inv) (k : Nat) (vs : List Byte) : (s.setVs k vs).Inv :=
  hi.congr (by simp) (by simp) (by simp) (by simp) (by simp)
theorem State.Inv.setDT (hi : s.Inv) (v : Byte) : (s.setDT v).Inv := hi.congr rfl rfl rfl rfl rfl
theorem State.Inv.setST (hi : s.Inv) (v : Byte) : (s.setST v).Inv := hi.congr rfl rfl rfl rfl rfl
theorem State.Inv.setFb (hi : s.Inv) (v : Screen) : (s.setFb v).Inv := hi.congr rfl rfl rfl rfl rfl
theorem State.Inv.pop (hi : s.Inv) : s.pop.Inv := hi.congr rfl rfl rfl rfl rfl
theorem State.Inv.consumeDraw (hi : s.Inv) : s.consumeDraw.Inv :=
  hi.congr (by simp) (by simp) (by simp) (by simp) (by simp)

/-! ### Operations on the five components -/

theorem State.Inv.setI (hi : s.Inv) {v : Word} (hv : v.toNat ≤ 0xFFF) : (s.setI v).Inv :=
  { hi with index_addressable := hv }

/-- Consecutive bytes stored inside the block (R51). -/
theorem State.Inv.writeBytes (hi : s.Inv) {a : Nat} {vs : List Byte} (ha : a + vs.length ≤ 0x1000) :
    (s.writeBytes a vs).Inv :=
  { hi with memory_wf := Memory.writeBytes_wf s.memory a vs ha hi.memory_wf }

/-- Where `pc` is fetchable the sub-state is free: an FX0A may begin or end a wait (R92, R203). -/
theorem State.Inv.setRun (hi : s.Inv) (hp : s.pc.toNat ≤ 0xFFE) (v : Run) : (s.setRun v).Inv :=
  { hi with waiting_fetchable := fun _ => hp }

/-- A running state may go to any `pc` up to 0x1002 (R26). -/
theorem State.Inv.setPc (hi : s.Inv) (hr : s.run = .running) {v : Word} (hv : v.toNat ≤ 0x1002) : (s.setPc v).Inv :=
  { hi with pc_bounded := hv, waiting_fetchable := fun h => absurd hr h }

theorem State.Inv.advance (hi : s.Inv) (hr : s.run = .running) (hp : s.pc.toNat ≤ 0xFFE) : s.advance.Inv :=
  hi.setPc hr (by bv_omega)

theorem State.Inv.skipIf (hi : s.Inv) (hr : s.run = .running) (hp : s.pc.toNat ≤ 0xFFE) (p : Bool) :
    (s.skipIf p).Inv := by
  refine hi.setPc hr ?_
  split <;> bv_omega

/-- The pushed entry is a fetchable address (R27). -/
theorem State.Inv.push (hi : s.Inv) {v : Addr} (hv : v.toNat ≤ 0xFFE) (h : s.SP.val < 16) : (s.push v h).Inv :=
  { hi with
    stack_fetchable := fun k => by
      rw [State.push_stack, Vector.getElem_set]
      split
      · exact hv
      · exact hi.stack_fetchable k }

/-- A popped entry is a fetchable address (R27). -/
theorem State.Inv.top_le (hi : s.Inv) (h : 0 < s.SP.val) : (s.top h).toNat ≤ 0xFFE :=
  hi.stack_fetchable ⟨s.SP.val - 1, by omega⟩

/-- The completing step of an FX0A is a running state's register write and advance (R92). -/
theorem State.Inv.completeWait (hi : s.Inv) (hp : s.pc.toNat ≤ 0xFFE) (x : Reg) (k : Key) : (s.completeWait x k).Inv :=
  ((hi.setRun hp .running).setV x (k.setWidth 8)).advance rfl hp

end Sys2Proof.Machine
end

section
/-! PROOFS. Every step keeps the invariant: one case an instruction, over the operations its answer is made of. -/

namespace Sys2Proof.Machine

/-- If the operation answers a next state, that state has the property. -/
def NextSatisfies (P : State → Prop) (r : Result) : Prop := ∀ t, r = .next t → P t

theorem NextSatisfies.next {P : State → Prop} {t : State} (h : P t) : NextSatisfies P (.next t) :=
  fun _ ht => by cases ht; exact h

theorem NextSatisfies.fault {P : State → Prop} (e : Fault) : NextSatisfies P (.fault e) :=
  fun _ ht => by cases ht

variable {s : State}

/-- A 12-bit address as a word is in 0x000..0xFFF (R73). -/
theorem addr_setWidth_le (nnn : Addr) : (nnn.setWidth 16).toNat ≤ 0xFFF := by bv_omega

/-- A natural number up to 0xFFF, stored as a word, stays in 0x000..0xFFF. -/
theorem word_ofNat_le {n : Nat} (h : n ≤ 0xFFF) : (BitVec.ofNat 16 n).toNat ≤ 0xFFF :=
  (Nat.mod_le ..).trans h

/-- A store at `I` writes only after its whole span was checked (R160), so inside the block. -/
theorem storeAtIndex_keeps_inv (hi : s.Inv) (hr : s.run = .running) (hp : s.pc.toNat ≤ 0xFFE) (vs : List Byte) :
    NextSatisfies State.Inv (storeAtIndex vs s) := by
  rcases storeAtIndex_cases vs s with ⟨hspan, h⟩ | ⟨e, -, h⟩
  · have hle : indexBase s + vs.length ≤ 0x1000 := by
      have hI : indexBase s ≤ 0xFFF := hi.index_addressable
      rcases (spanFault_eq_none _ _).1 hspan with h0 | h1 <;> omega
    rw [h]; exact .next ((hi.writeBytes hle).advance hr hp)
  · rw [h]; exact .fault e

/-- An instruction executed from a fetchable `pc` keeps the invariant. -/
theorem exec_keeps_inv (hi : s.Inv) (hr : s.run = .running) (hp : s.pc.toNat ≤ 0xFFE) (i : Instr) :
    NextSatisfies State.Inv (exec i s) := by
  cases i with
  | cls => exact .next ((hi.setFb _).advance hr hp)
  | ret =>
    rcases Nat.eq_zero_or_pos s.SP.val with h | h
    · rw [exec_ret_empty s h]; exact .fault _
    · rw [exec_ret s h]
      have htop := hi.top_le h
      exact .next (hi.pop.setPc hr (by bv_omega))
  | jp nnn => exact .next (hi.setPc hr ((addr_setWidth_le nnn).trans (by decide)))
  | call nnn =>
    by_cases h : s.SP.val < 16
    · rw [exec_call s nnn h]
      have hpush : (s.pc.setWidth 12).toNat ≤ 0xFFE := (Nat.mod_le ..).trans hp
      exact .next ((hi.push hpush h).setPc hr ((addr_setWidth_le nnn).trans (by decide)))
    · rw [exec_call_full s nnn (by omega)]; exact .fault _
  | jpV0 nnn =>
    rcases Nat.lt_or_ge 0xFFF (nnn.toNat + (s.getV 0).toNat) with h | h
    · rw [exec_jpV0_out s nnn h]; exact .fault _
    · rw [exec_jpV0 s nnn h]; exact .next (hi.setPc hr ((word_ofNat_le h).trans (by decide)))
  | seImm | sneImm | seReg | sneReg => exact .next (hi.skipIf hr hp _)
  | ldImm | addImm | ldReg | orReg | andReg | xorReg | ldVxDT => exact .next ((hi.setV _ _).advance hr hp)
  | addReg | subReg | shr | subnReg | shl => exact .next (((hi.setV _ _).setFlag _).advance hr hp)
  | rnd x nn =>
    exact .next ((hi.consumeDraw.setV x _).advance (by simpa using hr) (by simpa using hp))
  | ldI nnn => exact .next ((hi.setI (addr_setWidth_le nnn)).advance hr hp)
  | addI x =>
    rcases Nat.lt_or_ge 0xFFF (s.I.toNat + (s.getV x).toNat) with h | h
    · rw [exec_addI_out s x h]; exact .fault _
    · rw [exec_addI s x h]; exact .next ((hi.setI (word_ofNat_le h)).advance hr hp)
  | ldF x =>
    rcases Nat.lt_or_ge 0xF (s.getV x).toNat with h | h
    · rw [exec_ldF_out s x h]; exact .fault _
    · rw [exec_ldF s x h]
      have hglyph : glyphAddress (s.getV x).toNat ≤ 0xFFF := by unfold glyphAddress fontBase; omega
      exact .next ((hi.setI (word_ofNat_le hglyph)).advance hr hp)
  | ldB x => exact storeAtIndex_keeps_inv hi hr hp _
  | storeRegs x => exact storeAtIndex_keeps_inv hi hr hp _
  | loadRegs x =>
    rcases Nat.lt_or_ge 0xFFF (s.I.toNat + x.toNat) with h | h
    · rw [exec_loadRegs_out s x h]; exact .fault _
    · rw [exec_loadRegs s x h]
      exact .next ((hi.setVs _ _).advance (by simpa using hr) (by simpa using hp))
  | drw x y n =>
    by_cases h : n.toNat = 0 ∨ s.I.toNat + n.toNat ≤ 0x1000
    · rw [exec_drw s x y n h]; exact .next (((hi.setFb _).setFlag _).advance hr hp)
    · rw [exec_drw_out s x y n (by omega) (by omega)]; exact .fault _
  | skp x =>
    rcases Nat.lt_or_ge 0xF (s.getV x).toNat with h | h
    · rw [exec_skp_out s x h]; exact .fault _
    · rw [exec_skp s x h]; exact .next (hi.skipIf hr hp _)
  | sknp x =>
    rcases Nat.lt_or_ge 0xF (s.getV x).toNat with h | h
    · rw [exec_sknp_out s x h]; exact .fault _
    · rw [exec_sknp s x h]; exact .next (hi.skipIf hr hp _)
  | ldVxK x => exact .next (hi.setRun hp _)
  | ldDTVx x => exact .next ((hi.setDT _).advance hr hp)
  | ldSTVx x => exact .next ((hi.setST _).advance hr hp)

/-- Settles O57, over what a step can do: wait, complete a wait, or execute an instruction from a fetchable `pc`. -/
theorem stepKeepsTheInvariant : Obligations.StepKeepsTheInvariant := by
  unfold Obligations.StepKeepsTheInvariant
  intro s t hi h
  rcases step_next_cases h with ⟨x, -, rfl⟩ | ⟨x, k, hr, rfl⟩ | ⟨hr, hp, i, -, hx⟩
  · exact hi
  · exact hi.completeWait (hi.waiting_fetchable (by simp [hr])) x k
  · exact exec_keeps_inv hi hr hp i t hx

end Sys2Proof.Machine
end

section
/-! SUPPORT. The stack, SP and ST are read and written by 2NNN, 00EE and FX18 only (10_state.md R27, R28): every other
instruction answers the same whatever they hold, and hands them on. -/

namespace Sys2Proof.Machine

/-- The state with another stack, stack pointer and sound timer. -/
def State.withStackST (s : State) (st : Vector Addr 16) (sp : Fin 17) (v : Byte) : State :=
  { s with stack := st, SP := sp, ST := v }

/-- A function of the next state, errors left alone. -/
def mapNext (f : State → State) : Result → Result
  | .next t => .next (f t)
  | .fault e => .fault e
  | .refused r => .refused r

/-- 2NNN and 00EE use the stack (R27), FX18 writes ST (R205). -/
def usesStackST : Instr → Bool
  | .call _ | .ret | .ldSTVx _ => true
  | _ => false

variable (s : State) (st : Vector Addr 16) (sp : Fin 17) (v : Byte)

theorem State.withStackST_self : s.withStackST s.stack s.SP s.ST = s := rfl

theorem State.consumeDraw_withStackST : (s.withStackST st sp v).consumeDraw = s.consumeDraw.withStackST st sp v := by
  cases h : s.draws <;> simp [State.consumeDraw, State.withStackST, h]

theorem State.setVs_withStackST (k : Nat) (vs : List Byte) :
    (s.withStackST st sp v).setVs k vs = (s.setVs k vs).withStackST st sp v := by
  induction vs generalizing s k with
  | nil => rfl
  | cons b vs ih => exact ih (s.setV (BitVec.ofNat 4 k) b) (k + 1)

theorem storeAtIndex_withStackST (vs : List Byte) :
    storeAtIndex vs (s.withStackST st sp v) = mapNext (·.withStackST st sp v) (storeAtIndex vs s) := by
  have hbase : indexBase (s.withStackST st sp v) = indexBase s := rfl
  unfold storeAtIndex
  rw [hbase]
  split <;> rfl

/-- An instruction that does not use the stack or ST answers the same whatever they hold, and hands them on. Where it has a
check, the check reads none of them; its answer is the same updates of the other components. -/
theorem exec_withStackST (i : Instr) (hi : usesStackST i = false) :
    exec i (s.withStackST st sp v) = mapNext (·.withStackST st sp v) (exec i s) := by
  cases i with
  | call | ret | ldSTVx => cases hi
  | jpV0 nnn =>
    rcases Nat.lt_or_ge 0xFFF (nnn.toNat + (s.getV 0).toNat) with h | h
    · rw [exec_jpV0_out s nnn h]; exact exec_jpV0_out (s.withStackST st sp v) nnn h
    · rw [exec_jpV0 s nnn h]; exact exec_jpV0 (s.withStackST st sp v) nnn h
  | rnd x nn =>
    rw [exec_rnd, exec_rnd, State.consumeDraw_withStackST]; rfl
  | addI x =>
    rcases Nat.lt_or_ge 0xFFF (s.I.toNat + (s.getV x).toNat) with h | h
    · rw [exec_addI_out s x h]; exact exec_addI_out (s.withStackST st sp v) x h
    · rw [exec_addI s x h]; exact exec_addI (s.withStackST st sp v) x h
  | ldF x =>
    rcases Nat.lt_or_ge 0xF (s.getV x).toNat with h | h
    · rw [exec_ldF_out s x h]; exact exec_ldF_out (s.withStackST st sp v) x h
    · rw [exec_ldF s x h]; exact exec_ldF (s.withStackST st sp v) x h
  | ldB x => exact storeAtIndex_withStackST s st sp v (bcdDigits (s.getV x))
  | storeRegs x => exact storeAtIndex_withStackST s st sp v (s.getVs x)
  | loadRegs x =>
    rcases Nat.lt_or_ge 0xFFF (s.I.toNat + x.toNat) with h | h
    · rw [exec_loadRegs_out s x h]; exact exec_loadRegs_out (s.withStackST st sp v) x h
    · rw [exec_loadRegs s x h, exec_loadRegs (s.withStackST st sp v) x h, State.setVs_withStackST]; rfl
  | drw x y n =>
    by_cases h : n.toNat = 0 ∨ s.I.toNat + n.toNat ≤ 0x1000
    · rw [exec_drw s x y n h]; exact exec_drw (s.withStackST st sp v) x y n h
    · have h0 : n.toNat ≠ 0 := fun e => h (.inl e)
      have h1 : s.I.toNat + n.toNat > 0x1000 := Nat.lt_of_not_le fun e => h (.inr e)
      rw [exec_drw_out s x y n h0 h1]; exact exec_drw_out (s.withStackST st sp v) x y n h0 h1
  | skp x =>
    rcases Nat.lt_or_ge 0xF (s.getV x).toNat with h | h
    · rw [exec_skp_out s x h]; exact exec_skp_out (s.withStackST st sp v) x h
    · rw [exec_skp s x h]; exact exec_skp (s.withStackST st sp v) x h
  | sknp x =>
    rcases Nat.lt_or_ge 0xF (s.getV x).toNat with h | h
    · rw [exec_sknp_out s x h]; exact exec_sknp_out (s.withStackST st sp v) x h
    · rw [exec_sknp s x h]; exact exec_sknp (s.withStackST st sp v) x h
  | _ => rfl

/-- Such an instruction leaves the stack, SP and ST: the case of exec_withStackST that puts in what the state holds. -/
theorem exec_keeps_stackST {s t : State} {i : Instr} (hi : usesStackST i = false) (h : exec i s = .next t) :
    t.stack = s.stack ∧ t.SP = s.SP ∧ t.ST = s.ST := by
  have hmap := exec_withStackST s s.stack s.SP s.ST i hi
  rw [State.withStackST_self, h] at hmap
  injection hmap with ht
  rw [ht]
  exact ⟨rfl, rfl, rfl⟩

end Sys2Proof.Machine
end

section
/-! SUPPORT. Two states that answer the same error, or next states in a relation; and that a step adds to the instructions
only reads of `run`, `pc` and memory. -/

namespace Sys2Proof.Machine

/-- Where `r` is an error `r'` is the same, and where `r` is a next state `r'` is one related to it. -/
def SameAnswer (R : State → State → Prop) (r r' : Result) : Prop :=
  (∀ e, r = .fault e → r' = .fault e) ∧ (∀ t, r = .next t → ∃ t', r' = .next t' ∧ R t t')

theorem SameAnswer.next {R : State → State → Prop} {t t' : State} (h : R t t') : SameAnswer R (.next t) (.next t') :=
  ⟨fun e he => by (cases he), fun u hu => by cases hu; exact ⟨t', rfl, h⟩⟩

theorem SameAnswer.fault {R : State → State → Prop} (e : Fault) : SameAnswer R (.fault e) (.fault e) :=
  ⟨fun _ h => h, fun t ht => by cases ht⟩

/-- The second answer is the first with its next state changed by a function. -/
theorem SameAnswer.of_mapNext {R : State → State → Prop} {f : State → State} {r r' : Result} (h : r' = mapNext f r)
    (hR : ∀ t, r = .next t → R t (f t)) : SameAnswer R r r' :=
  ⟨fun _ he => by rw [h, he]; rfl, fun t ht => ⟨f t, by rw [h, ht]; rfl, hR t ht⟩⟩

/-- Two related states that agree on `run`, `pc` and memory step alike, if the completing step of an FX0A and every
instruction do (R91 to R96). -/
theorem step_sameAnswer {R : State → State → Prop} {s s' : State} (hrun : s'.run = s.run) (hpc : s'.pc = s.pc)
    (hmem : s'.memory = s.memory) (hR : R s s') (hwait : ∀ x k, R (s.completeWait x k) (s'.completeWait x k))
    (hexec : ∀ i, SameAnswer R (exec i s) (exec i s')) : SameAnswer R (step s) (step s') := by
  have hword : s'.fetchWord = s.fetchWord := by
    simp only [State.fetchWord, hpc, State.readByte_congr hmem]
  rcases hr : s.run with _ | ⟨x, _ | k⟩
  · by_cases hp : s.pc.toNat ≤ 0xFFE
    · rw [step_running hr hp, step_running (hrun.trans hr) (hpc ▸ hp), hword]
      cases decodeWord s.fetchWord with
      | none => exact .fault _
      | some i => exact hexec i
    · have hp' : s.pc.toNat > 0xFFE := Nat.lt_of_not_le hp
      rw [step_unfetchable hr hp', step_unfetchable (hrun.trans hr) (hpc ▸ hp'), hpc]
      exact .fault _
  · rw [step_idle hr, step_idle (hrun.trans hr)]; exact .next hR
  · rw [step_complete hr, step_complete (hrun.trans hr)]; exact .next (hwait x k)

/-- Two states that differ in the stack's entries and ST answer alike, under a relation that holds of what 2NNN, 00EE and
FX18 answer, and of every next state that has the stack, SP and ST it began with. -/
theorem exec_sameAnswer_withStackST {R : State → State → Prop} {s : State} {st : Vector Addr 16} {v : Byte}
    (hframe : ∀ t, t.stack = s.stack → t.SP = s.SP → t.ST = s.ST → R t (t.withStackST st s.SP v))
    (hcall : ∀ (nnn : Addr) (h : s.SP.val < 16), R ((s.push (s.pc.setWidth 12) h).setPc (nnn.setWidth 16))
      (((s.withStackST st s.SP v).push (s.pc.setWidth 12) h).setPc (nnn.setWidth 16)))
    (hret : ∀ h : 0 < s.SP.val, R (s.pop.setPc ((s.top h).setWidth 16 + 2))
      ((s.withStackST st s.SP v).pop.setPc (((s.withStackST st s.SP v).top h).setWidth 16 + 2)))
    (hldST : ∀ x, R (s.setST (s.getV x)).advance ((s.withStackST st s.SP v).setST (s.getV x)).advance) (i : Instr) :
    SameAnswer R (exec i s) (exec i (s.withStackST st s.SP v)) := by
  cases hi : usesStackST i with
  | false =>
    refine .of_mapNext (exec_withStackST s st s.SP v i hi) fun t ht => ?_
    obtain ⟨hstack, hSP, hST⟩ := exec_keeps_stackST hi ht
    exact hframe t hstack hSP hST
  | true =>
    cases i with
    | call nnn =>
      by_cases hSP : s.SP.val < 16
      · rw [exec_call s nnn hSP, exec_call (s.withStackST st s.SP v) nnn hSP]
        exact .next (hcall nnn hSP)
      · have hfull : s.SP.val = 16 := by omega
        rw [exec_call_full s nnn hfull, exec_call_full (s.withStackST st s.SP v) nnn hfull]
        exact .fault _
    | ret =>
      rcases Nat.eq_zero_or_pos s.SP.val with hSP | hSP
      · rw [exec_ret_empty s hSP, exec_ret_empty (s.withStackST st s.SP v) hSP]
        exact .fault _
      · rw [exec_ret s hSP, exec_ret (s.withStackST st s.SP v) hSP]
        exact .next (hret hSP)
    | ldSTVx x => exact .next (hldST x)
    | _ => cases hi

end Sys2Proof.Machine
end

section
/-! PROOFS. Stale stack entries and the sound timer make no difference to a step. -/

namespace Sys2Proof.Machine

open Sys2Proof.Claims

/-! ### Stale stack entries -/

/-- Two states that differ only in stale entries, as one state and a second stack. -/
theorem sameButStaleEntries_iff {s s' : State} : SameButStaleEntries s s' ↔
    ∃ st, s' = s.withStackST st s.SP s.ST ∧ ∀ k : Fin 16, k.val < s.SP.val → st[k.val] = s.stack[k.val] :=
  ⟨fun ⟨h, hst⟩ => ⟨s'.stack, h, hst⟩, fun ⟨st, h, hst⟩ => by subst h; exact ⟨rfl, hst⟩⟩

/-- An entry pushed on both stacks is in use in both, so they still differ in stale entries only. -/
theorem sameButStaleEntries_push {s : State} {st : Vector Addr 16}
    (hst : ∀ k : Fin 16, k.val < s.SP.val → st[k.val] = s.stack[k.val]) (v : Addr) (h : s.SP.val < 16) :
    SameButStaleEntries (s.push v h) ((s.withStackST st s.SP s.ST).push v h) := by
  refine ⟨rfl, fun k hk => ?_⟩
  have hk' : k.val < s.SP.val + 1 := hk
  change (st.set s.SP.val v h)[k.val] = (s.stack.set s.SP.val v h)[k.val]
  rw [Vector.getElem_set, Vector.getElem_set]
  split
  · rfl
  · exact hst k (by omega)

/-- A write of pc does not touch the entries. -/
theorem sameButStaleEntries_setPc {s s' : State} (h : SameButStaleEntries s s') (v : Word) :
    SameButStaleEntries (s.setPc v) (s'.setPc v) := by
  obtain ⟨st, rfl, hst⟩ := sameButStaleEntries_iff.1 h
  exact ⟨rfl, hst⟩

/-- 2NNN writes at SP and 00EE reads below it, so neither reads a stale entry (R27). -/
theorem exec_sameButStaleEntries {s s' : State} (h : SameButStaleEntries s s') (i : Instr) :
    SameAnswer SameButStaleEntries (exec i s) (exec i s') := by
  obtain ⟨st, rfl, hst⟩ := sameButStaleEntries_iff.1 h
  refine exec_sameAnswer_withStackST (fun t hstack hSP hST => ?frame) (fun nnn hSP => ?call) (fun hSP => ?ret)
    (fun _ => ⟨rfl, hst⟩) i
  case frame =>
    refine sameButStaleEntries_iff.2 ⟨st, by rw [hSP, hST], ?_⟩
    rw [hSP, hstack]
    exact hst
  case call => exact sameButStaleEntries_setPc (sameButStaleEntries_push hst _ hSP) _
  case ret =>
    have htop : (s.withStackST st s.SP s.ST).top hSP = s.top hSP :=
      hst ⟨s.SP.val - 1, by omega⟩ (Nat.sub_lt hSP Nat.one_pos)
    rw [htop]
    exact ⟨rfl, fun k hk => hst k (Nat.lt_of_lt_of_le hk (Nat.sub_le ..))⟩

/-- Settles O59. The step adds no use of the stack to the instructions'. -/
theorem staleStackEntriesAreInvisible : Obligations.StaleStackEntriesAreInvisible := by
  unfold Obligations.StaleStackEntriesAreInvisible
  intro s s' h
  have hexec := exec_sameButStaleEntries h
  obtain ⟨st, rfl, hst⟩ := sameButStaleEntries_iff.1 h
  exact step_sameAnswer rfl rfl rfl h (fun _ _ => ⟨rfl, hst⟩) hexec

/-! ### The sound timer -/

/-- Two states that differ at most in ST. -/
def SameButST (t t' : State) : Prop := t'.setST 0 = t.setST 0

/-- FX18 writes ST and does not read it, 2NNN and 00EE leave it, and no other instruction uses it (R28). -/
theorem exec_sameButST (s : State) (v : Byte) (i : Instr) : SameAnswer SameButST (exec i s) (exec i (s.setST v)) :=
  exec_sameAnswer_withStackST (R := SameButST) (st := s.stack) (v := v)
    (fun _ hstack hSP _ => by rw [← hstack, ← hSP]; rfl) (fun _ _ => rfl) (fun _ => rfl) (fun _ => rfl) i

/-- Settles O60. The step reads `run`, `pc` and memory beside what its instruction reads. -/
theorem soundTimerIsNeverRead : Obligations.SoundTimerIsNeverRead := by
  unfold Obligations.SoundTimerIsNeverRead
  intro s v
  exact step_sameAnswer (R := SameButST) rfl rfl rfl rfl (fun _ _ => rfl) (exec_sameButST s v)

end Sys2Proof.Machine
end

section
/-! PROOFS. The state after creation (10_state.md R35), and the random byte of CXNN (R33). -/

namespace Sys2Proof.Machine

/-! ### Creation -/

/-- Nothing is listed at creation, so every address reads as its creation value. -/
theorem State.reset_readByte (a : Nat) : State.reset.readByte a = creationByte a := rfl

@[simp] theorem State.reset_getV (r : Reg) : State.reset.getV r = 0 := by simp [State.getV, State.reset]
@[simp] theorem State.reset_getKey (k : Key) : State.reset.getKey k = false := by simp [State.getKey, State.reset]
@[simp] theorem State.reset_stack (k : Fin 16) : State.reset.stack[k.val] = 0 := by simp [State.reset]

theorem fontData_length : fontData.length = 80 := rfl

/-- Creation leaves 0x00 outside the font (R35). -/
theorem creationByte_outside_font {a : Nat} (h : a < fontBase ∨ fontBase + 80 ≤ a) : creationByte a = 0 := by
  unfold creationByte
  split
  · have hout : fontData.length ≤ a - fontBase := by rw [fontData_length]; omega
    rw [List.getElem?_eq_none hout]
    rfl
  · rfl

/-- Creation puts FONT_DATA at FONT_BASE (R35, R58). -/
theorem creationByte_font {j : Nat} (h : j < fontData.length) : creationByte (fontBase + j) = fontData[j] := by
  simp [creationByte, h]

/-- Settles O55. -/
theorem creationValues : Obligations.CreationValues := by
  unfold Obligations.CreationValues
  refine ⟨State.reset_getV, rfl, rfl, rfl, State.reset_stack, rfl, rfl, State.reset_getKey, Screen.pixel_clear, rfl,
    by decide, fun a => creationByte_outside_font, ?_⟩
  refine List.ext_getElem (by simp [fontData_length]) fun j _ hj => ?_
  simpa [State.reset_readByte] using creationByte_font hj

/-- Settles O56. Memory lists nothing, and the other bounds are of the values in State.reset. -/
theorem creationHasTheInvariant : Obligations.CreationHasTheInvariant where
  memory_wf := Memory.wf_nil
  index_addressable := by decide
  pc_bounded := by decide
  waiting_fetchable := fun h => absurd rfl h
  stack_fetchable := fun k => by simp

/-! ### The random byte -/

/-- CXNN whatever the draw: V[x] is the byte drawn AND nn, bit by bit, and pc moves by 2 (R144). -/
theorem exec_rnd_next (s : State) (x : Reg) (nn : Byte) :
    ∃ t, exec (.rnd x nn) s = .next t ∧ t.getV x = s.nextDraw &&& nn ∧ t.draws = s.consumeDraw.draws ∧
      t.drawIndex = s.consumeDraw.drawIndex ∧ t.pc = s.pc + 2 :=
  ⟨_, exec_rnd s x nn, by simp, rfl, rfl, by simp⟩

/-- Settles O38: the byte drawn is the oldest supplied, or the free one, and the other field of the two stays. -/
theorem randomByteIsMasked : Obligations.RandomByteIsMasked := by
  unfold Obligations.RandomByteIsMasked
  intro s x nn
  obtain ⟨t, hexec, hV, hdraws, hindex, hpc⟩ := exec_rnd_next s x nn
  constructor
  · intro r rs h
    obtain ⟨hr, hrest, hkept⟩ := s.consumeDraw_supplied r rs h
    exact ⟨t, hexec, fun b => by rw [hV, hr, BitVec.getLsbD_and], hdraws.trans hrest, hindex.trans hkept, hpc⟩
  · intro h
    obtain ⟨hr, hempty, hmoved⟩ := s.consumeDraw_free h
    refine ⟨t, s.nextDraw, hexec, fun b => by rw [hV, BitVec.getLsbD_and], fun h0 => ?_,
      hdraws.trans hempty, hindex.trans hmoved, hpc⟩
    rw [hV, h0]
    exact BitVec.and_zero

end Sys2Proof.Machine
end

section
/-! PROOFS. The bytes of an instruction decode to it (30_encoding.md R70 to R74). -/

namespace Sys2Proof

/-! ### A word put together again from its fields (R71, R72) -/

section
variable {w : Word} {op sub : BitVec 4} {nn : Byte}

theorem encodeXY_fields (hop : fieldOp w = op) (hn : fieldN w = sub) :
    encodeXY op (fieldX w) (fieldY w) sub = w := by
  subst hop hn
  apply BitVec.eq_of_toNat_eq
  rw [toNat_encodeXY, toNat_fieldOp, toNat_fieldX, toNat_fieldY, toNat_fieldN]; omega

theorem encodeXNN_fields (hop : fieldOp w = op) (hnn : fieldNN w = nn) : encodeXNN op (fieldX w) nn = w := by
  subst hop hnn
  apply BitVec.eq_of_toNat_eq
  rw [toNat_encodeXNN, toNat_fieldOp, toNat_fieldX, toNat_fieldNN]; omega

theorem encodeNNN_fields (hop : fieldOp w = op) : encodeNNN op (fieldNNN w) = w := by
  subst hop
  apply BitVec.eq_of_toNat_eq
  rw [toNat_encodeNNN, toNat_fieldOp, toNat_fieldNNN]; omega

end

/-! ### Decoding an encoded instruction -/

section
variable (x y : Reg) (sub : BitVec 4) (nn : Byte)

theorem decodeWord_encodeXY_alu : decodeWord (encodeXY 0x8 x y sub) = decodeAlu x y sub := by
  simp [decodeWord]
theorem decodeWord_encodeXNN_keys : decodeWord (encodeXNN 0xE x nn) = decodeKeys x nn := by
  simp [decodeWord]
theorem decodeWord_encodeXNN_misc : decodeWord (encodeXNN 0xF x nn) = decodeMisc x nn := by
  simp [decodeWord]

end

/-- Each constructor's word leads the dispatch on `op`, and on the sub-selector where there is one, to its own arm. -/
theorem decodeWord_encode (i : Instr) : decodeWord (encode i) = some i := by
  cases i with
  | cls | ret => rfl
  | jp | call | ldI | jpV0 => simp [encode, decodeWord]
  | seImm | sneImm | ldImm | addImm | rnd => simp [encode, decodeWord]
  | seReg | sneReg | drw => simp [encode, decodeWord]
  | ldReg | orReg | andReg | xorReg | addReg | subReg | shr | subnReg | shl => exact decodeWord_encodeXY_alu ..
  | skp | sknp => exact decodeWord_encodeXNN_keys ..
  | ldVxDT | ldVxK | ldDTVx | ldSTVx | addI | ldF | ldB | storeRegs | loadRegs => exact decodeWord_encodeXNN_misc ..

/-- Settles O2: the two bytes put together again are the word, which decodes to its instruction. -/
theorem decodeOfEncodeIsTheInstruction : Obligations.DecodeOfEncodeIsTheInstruction := by
  unfold Obligations.DecodeOfEncodeIsTheInstruction
  intro i rest
  change decode (highByte (encode i) :: lowByte (encode i) :: rest) = .instr i rest
  rw [decode_cons, wordOfBytes_split, decodeWord_encode]

end Sys2Proof
end

section
/-! PROOFS. A word that decodes is the word of its instruction; the rows of the opcode table (30_encoding.md R74 to R78). -/

namespace Sys2Proof

/-! ### Encoding a decoded word -/

section
variable {w : Word} {x y : Reg} {sub : BitVec 4} {nn : Byte} {i : Instr}

theorem encode_of_decodeAlu (h : decodeAlu x y sub = some i) : encode i = encodeXY 0x8 x y sub := by
  unfold decodeAlu at h
  split at h <;> cases h
  all_goals exact congrArg (encodeXY 0x8 x y) (BitVec.eq_of_toNat_eq (Eq.symm ‹_›))

theorem encode_of_decodeKeys (h : decodeKeys x nn = some i) : encode i = encodeXNN 0xE x nn := by
  unfold decodeKeys at h
  split at h <;> cases h
  all_goals exact congrArg (encodeXNN 0xE x) (BitVec.eq_of_toNat_eq (Eq.symm ‹_›))

theorem encode_of_decodeMisc (h : decodeMisc x nn = some i) : encode i = encodeXNN 0xF x nn := by
  unfold decodeMisc at h
  split at h <;> cases h
  all_goals exact congrArg (encodeXNN 0xF x) (BitVec.eq_of_toNat_eq (Eq.symm ‹_›))

/-- The arms of the dispatch on `op`, taken together by their format. -/
theorem encode_of_decodeWord (h : decodeWord w = some i) : encode i = w := by
  unfold decodeWord at h
  split at h
  case h_1 =>
    split_ifs at h with hcls hret
    · cases h; exact hcls.symm
    · cases h; exact hret.symm
  case h_2 hop | h_3 hop | h_11 hop | h_12 hop =>
    cases h; exact encodeNNN_fields (BitVec.eq_of_toNat_eq hop)
  case h_4 hop | h_5 hop | h_7 hop | h_8 hop | h_13 hop =>
    cases h; exact encodeXNN_fields (BitVec.eq_of_toNat_eq hop) rfl
  case h_6 hop | h_10 hop =>
    split_ifs at h with hn
    cases h; exact encodeXY_fields (BitVec.eq_of_toNat_eq hop) hn
  case h_14 hop => cases h; exact encodeXY_fields (BitVec.eq_of_toNat_eq hop) rfl
  case h_9 hop => exact (encode_of_decodeAlu h).trans (encodeXY_fields (BitVec.eq_of_toNat_eq hop) rfl)
  case h_15 hop => exact (encode_of_decodeKeys h).trans (encodeXNN_fields (BitVec.eq_of_toNat_eq hop) rfl)
  case h_16 hop => exact (encode_of_decodeMisc h).trans (encodeXNN_fields (BitVec.eq_of_toNat_eq hop) rfl)
  case h_17 => cases h

theorem decodeWord_eq_some_iff : decodeWord w = some i ↔ encode i = w :=
  ⟨encode_of_decodeWord, fun h => h ▸ decodeWord_encode i⟩

end

/-- Settles O3: decoding to an instruction is being its word. -/
theorem encodeOfDecodeIsTheWord : Obligations.EncodeOfDecodeIsTheWord := by
  unfold Obligations.EncodeOfDecodeIsTheWord
  exact fun _ _ => decodeWord_eq_some_iff.1

/-! ### A word that matches a row of R74 is a word of the row's format -/

section
variable {w : Word} {op sub : BitVec 4} {nn : Byte}

theorem encodeNNN_of_mask (h : w &&& 0xF000#16 = encodeNNN op 0) : encodeNNN op (fieldNNN w) = w := by
  rw [← encodeNNN_fields (w := w) rfl, encodeNNN_mask] at h
  exact encodeNNN_fields (by simpa using congrArg fieldOp h)

theorem encodeXNN_of_mask (h : w &&& 0xF000#16 = encodeXNN op 0 0) : encodeXNN op (fieldX w) (fieldNN w) = w := by
  rw [← encodeXNN_fields (w := w) rfl rfl, encodeXNN_mask] at h
  exact encodeXNN_fields (by simpa using congrArg fieldOp h) rfl

theorem encodeXYN_of_mask (h : w &&& 0xF000#16 = encodeXY op 0 0 0) :
    encodeXY op (fieldX w) (fieldY w) (fieldN w) = w := by
  rw [← encodeXY_fields (w := w) rfl rfl, encodeXYN_mask] at h
  exact encodeXY_fields (by simpa using congrArg fieldOp h) rfl

theorem encodeXY_of_mask (h : w &&& 0xF00F#16 = encodeXY op 0 0 sub) : encodeXY op (fieldX w) (fieldY w) sub = w := by
  rw [← encodeXY_fields (w := w) rfl rfl, encodeXY_mask] at h
  exact encodeXY_fields (by simpa using congrArg fieldOp h) (by simpa using congrArg fieldN h)

theorem encodeX_of_mask (h : w &&& 0xF0FF#16 = encodeXNN op 0 nn) : encodeXNN op (fieldX w) nn = w := by
  rw [← encodeXNN_fields (w := w) rfl rfl, encodeX_mask] at h
  exact encodeXNN_fields (by simpa using congrArg fieldOp h) (by simpa using congrArg fieldNN h)

end

/-- A row of R74 that the word matches names the instruction the word encodes. -/
def RowEncodes (w : Word) (r : OpRow) : Prop :=
  w &&& r.mask = r.pattern → ∃ i, encode i = w ∧ i.mnemonic = r.mnemonic

section
variable (w : Word)

theorem rowEncodes_low : ∀ r ∈ opcodeRowsLow, RowEncodes w r := by
  simp only [opcodeRowsLow, List.forall_mem_cons]
  exact ⟨fun h => ⟨.cls, h.symm.trans BitVec.and_allOnes, rfl⟩,
    fun h => ⟨.ret, h.symm.trans BitVec.and_allOnes, rfl⟩,
    fun h => ⟨.jp _, encodeNNN_of_mask h, rfl⟩,
    fun h => ⟨.call _, encodeNNN_of_mask h, rfl⟩,
    fun h => ⟨.seImm .., encodeXNN_of_mask h, rfl⟩,
    fun h => ⟨.sneImm .., encodeXNN_of_mask h, rfl⟩,
    fun h => ⟨.seReg .., encodeXY_of_mask h, rfl⟩,
    fun h => ⟨.ldImm .., encodeXNN_of_mask h, rfl⟩,
    fun h => ⟨.addImm .., encodeXNN_of_mask h, rfl⟩,
    List.forall_mem_nil _⟩

theorem rowEncodes_alu : ∀ r ∈ opcodeRowsAlu, RowEncodes w r := by
  simp only [opcodeRowsAlu, List.forall_mem_cons]
  exact ⟨fun h => ⟨.ldReg .., encodeXY_of_mask h, rfl⟩,
    fun h => ⟨.orReg .., encodeXY_of_mask h, rfl⟩,
    fun h => ⟨.andReg .., encodeXY_of_mask h, rfl⟩,
    fun h => ⟨.xorReg .., encodeXY_of_mask h, rfl⟩,
    fun h => ⟨.addReg .., encodeXY_of_mask h, rfl⟩,
    fun h => ⟨.subReg .., encodeXY_of_mask h, rfl⟩,
    fun h => ⟨.shr .., encodeXY_of_mask h, rfl⟩,
    fun h => ⟨.subnReg .., encodeXY_of_mask h, rfl⟩,
    fun h => ⟨.shl .., encodeXY_of_mask h, rfl⟩,
    fun h => ⟨.sneReg .., encodeXY_of_mask h, rfl⟩,
    List.forall_mem_nil _⟩

theorem rowEncodes_high : ∀ r ∈ opcodeRowsHigh, RowEncodes w r := by
  simp only [opcodeRowsHigh, List.forall_mem_cons]
  exact ⟨fun h => ⟨.ldI _, encodeNNN_of_mask h, rfl⟩,
    fun h => ⟨.jpV0 _, encodeNNN_of_mask h, rfl⟩,
    fun h => ⟨.rnd .., encodeXNN_of_mask h, rfl⟩,
    fun h => ⟨.drw .., encodeXYN_of_mask h, rfl⟩,
    fun h => ⟨.skp _, encodeX_of_mask h, rfl⟩,
    fun h => ⟨.sknp _, encodeX_of_mask h, rfl⟩,
    fun h => ⟨.ldVxDT _, encodeX_of_mask h, rfl⟩,
    fun h => ⟨.ldVxK _, encodeX_of_mask h, rfl⟩,
    fun h => ⟨.ldDTVx _, encodeX_of_mask h, rfl⟩,
    fun h => ⟨.ldSTVx _, encodeX_of_mask h, rfl⟩,
    fun h => ⟨.addI _, encodeX_of_mask h, rfl⟩,
    fun h => ⟨.ldF _, encodeX_of_mask h, rfl⟩,
    fun h => ⟨.ldB _, encodeX_of_mask h, rfl⟩,
    fun h => ⟨.storeRegs _, encodeX_of_mask h, rfl⟩,
    fun h => ⟨.loadRegs _, encodeX_of_mask h, rfl⟩,
    List.forall_mem_nil _⟩

/-- R74 from the table's side: the word is that of an instruction of the row, so it decodes to it. -/
theorem decodeWord_of_row {r : OpRow} (hr : r ∈ opcodeTable) (h : w &&& r.mask = r.pattern) :
    ∃ i, decodeWord w = some i ∧ i.mnemonic = r.mnemonic := by
  have hrow : RowEncodes w r := List.forall_mem_append.2
    ⟨List.forall_mem_append.2 ⟨rowEncodes_low w, rowEncodes_alu w⟩, rowEncodes_high w⟩ r hr
  obtain ⟨i, hi, hname⟩ := hrow h
  exact ⟨i, decodeWord_eq_some_iff.2 hi, hname⟩

end

/-! ### The row of an instruction -/

open Sys2Proof.Laws

theorem encodesInRow (i : Instr) : EncodesInRow.Statement i := by
  cases i with
  | cls => exact EncodesInRow.cls
  | ret => exact EncodesInRow.ret
  | jp => exact EncodesInRow.jp _
  | call => exact EncodesInRow.call _
  | seImm => exact EncodesInRow.seImm ..
  | sneImm => exact EncodesInRow.sneImm ..
  | seReg => exact EncodesInRow.seReg ..
  | ldImm => exact EncodesInRow.ldImm ..
  | addImm => exact EncodesInRow.addImm ..
  | ldReg => exact EncodesInRow.ldReg ..
  | orReg => exact EncodesInRow.orReg ..
  | andReg => exact EncodesInRow.andReg ..
  | xorReg => exact EncodesInRow.xorReg ..
  | addReg => exact EncodesInRow.addReg ..
  | subReg => exact EncodesInRow.subReg ..
  | shr => exact EncodesInRow.shr ..
  | subnReg => exact EncodesInRow.subnReg ..
  | shl => exact EncodesInRow.shl ..
  | sneReg => exact EncodesInRow.sneReg ..
  | ldI => exact EncodesInRow.ldI _
  | jpV0 => exact EncodesInRow.jpV0 _
  | rnd => exact EncodesInRow.rnd ..
  | drw => exact EncodesInRow.drw ..
  | skp => exact EncodesInRow.skp _
  | sknp => exact EncodesInRow.sknp _
  | ldVxDT => exact EncodesInRow.ldVxDT _
  | ldVxK => exact EncodesInRow.ldVxK _
  | ldDTVx => exact EncodesInRow.ldDTVx _
  | ldSTVx => exact EncodesInRow.ldSTVx _
  | addI => exact EncodesInRow.addI _
  | ldF => exact EncodesInRow.ldF _
  | ldB => exact EncodesInRow.ldB _
  | storeRegs => exact EncodesInRow.storeRegs _
  | loadRegs => exact EncodesInRow.loadRegs _

theorem row?_eq_some {i : Instr} {r : OpRow} (h : i.row? = some r) : r ∈ opcodeTable ∧ r.mnemonic = i.mnemonic :=
  ⟨List.mem_of_find?_eq_some h, by simpa using List.find?_some h⟩

/-- Settles O4. A word that matches a row is the word of an instruction of that row, and a word that decodes is the word
of its instruction, which stands in a row. -/
theorem wordDecodesAsItsRow : Obligations.WordDecodesAsItsRow := by
  unfold Obligations.WordDecodesAsItsRow
  refine fun w => ⟨fun r => decodeWord_of_row w, fun i h => ?_⟩
  obtain ⟨r, hr, hmatch⟩ := encodesInRow i
  obtain ⟨hmem, hname⟩ := row?_eq_some hr
  exact ⟨r, hmem, hname, decodeWord_eq_some_iff.1 h ▸ hmatch⟩

/-! ### The rows are disjoint -/

theorem opcodeTable_mnemonics_nodup : (opcodeTable.map OpRow.mnemonic).Nodup := by decide

/-- Settles O6. The decoder answers one instruction, whose mnemonic is that of both rows. -/
theorem opcodeRowsAreDisjoint : Obligations.OpcodeRowsAreDisjoint := by
  unfold Obligations.OpcodeRowsAreDisjoint
  intro w r q hr hq hwr hwq
  obtain ⟨i, hi, hir⟩ := decodeWord_of_row w hr hwr
  obtain ⟨j, hj, hjq⟩ := decodeWord_of_row w hq hwq
  have hij : i = j := Option.some.inj (hi.symm.trans hj)
  exact List.inj_on_of_nodup_map opcodeTable_mnemonics_nodup hr hq (by rw [← hir, ← hjq, hij])

end Sys2Proof
end

section
/-! PROOFS. The words that decode to nothing (30_encoding.md R75), and the sample words. -/

namespace Sys2Proof

/-! ### The selectors that decode to nothing -/

section
variable (x y : Reg) (sub : BitVec 4) (nn : Byte)

theorem decodeAlu_eq_none_iff : decodeAlu x y sub = none ↔ sub.toNat ∈ [0x8, 0x9, 0xA, 0xB, 0xC, 0xD, 0xF] := by
  have hsub : sub.toNat < 16 := sub.isLt
  unfold decodeAlu
  split
  case h_10 => simp only [List.mem_cons]; grind
  all_goals simp [*]

theorem decodeKeys_eq_none_iff : decodeKeys x nn = none ↔ nn.toNat ∉ [0x9E, 0xA1] := by
  unfold decodeKeys
  split
  case h_3 => grind
  all_goals simp [*]

theorem decodeMisc_eq_none_iff :
    decodeMisc x nn = none ↔ nn.toNat ∉ [0x07, 0x0A, 0x15, 0x18, 0x1E, 0x29, 0x33, 0x55, 0x65] := by
  unfold decodeMisc
  split
  case h_10 => simp only [List.mem_cons]; grind
  all_goals simp [*]

end

/-! ### The invalid words -/

section
variable {w : Word}

theorem fieldN_eq_zero_iff : fieldN w = 0#4 ↔ w.toNat % 16 = 0 := by
  rw [← toNat_fieldN]; exact BitVec.toNat_inj.symm

theorem toNat_lt_0x1000_iff : w.toNat < 0x1000 ↔ w.toNat / 0x1000 = 0 :=
  (Nat.div_eq_zero_iff_lt (by decide)).symm

end

/-- Settles O5. Each arm of the dispatch on `op` leaves the disjunct of its own `op`; the ops with no sub-selector leave
none. -/
theorem invalidWordsAreThoseListed : Obligations.InvalidWordsAreThoseListed := by
  unfold Obligations.InvalidWordsAreThoseListed
  intro w
  rw [toNat_lt_0x1000_iff, decodeWord, toNat_fieldOp]
  split
  case h_1 hop => split_ifs <;> simp [*]
  case h_6 hop | h_10 hop => simp [hop, fieldN_eq_zero_iff]
  case h_9 hop => simp [hop, decodeAlu_eq_none_iff, toNat_fieldN]
  case h_15 hop => simp [hop, decodeKeys_eq_none_iff, toNat_fieldNN]
  case h_16 hop => simp [hop, decodeMisc_eq_none_iff, toNat_fieldNN]
  case h_2 hop | h_3 hop | h_4 hop | h_5 hop | h_7 hop | h_8 hop | h_11 hop | h_12 hop | h_13 hop |
      h_14 hop => simp [hop]
  case h_17 =>
    have hop : w.toNat / 0x1000 < 16 := toNat_fieldOp w ▸ (fieldOp w).isLt
    grind

/-- Settles O1: eight closed runs of the decoder. -/
theorem sampleWordsDecode : Obligations.SampleWordsDecode := by
  unfold Obligations.SampleWordsDecode
  decide

end Sys2Proof
end

section
/-! PROOFS. The execution cycle (40_execution_cycle.md): what a step answers for the word at pc, and its awaiting result. -/

namespace Sys2Proof.Machine

open Sys2Proof.Claims

variable {s t : State}

/-- The word the statements name at pc is the word the step fetches (R94). -/
theorem wordAt_pc (s : State) : wordAt s s.pc.toNat = s.fetchWord := rfl

/-- Settles O7. -/
theorem stepRunsTheDecodedInstruction : Obligations.StepRunsTheDecodedInstruction := by
  unfold Obligations.StepRunsTheDecodedInstruction
  intro s i ⟨hr, hp⟩ hi
  rw [wordAt_pc] at hi
  rw [step_running hr hp, hi]

/-- Settles O8. -/
theorem invalidWordStopsTheStep : Obligations.InvalidWordStopsTheStep := by
  unfold Obligations.InvalidWordStopsTheStep
  intro s ⟨hr, hp⟩ hnone
  rw [wordAt_pc] at hnone ⊢
  rw [step_running hr hp, hnone]

/-! ### The awaiting result (R101) -/

theorem State.awaiting_iff : s.awaiting = true ↔ s.run ≠ .running := by
  unfold State.awaiting
  cases s.run <;> simp

@[simp] theorem State.completeWait_run (s : State) (x : Reg) (k : Key) : (s.completeWait x k).run = .running := rfl

/-- Settles O10. -/
theorem awaitingWithoutKeyChangesNothing : Obligations.AwaitingWithoutKeyChangesNothing := by
  unfold Obligations.AwaitingWithoutKeyChangesNothing
  exact fun s x hr => ⟨step_idle hr, State.awaiting_iff.2 (by simp [hr])⟩

/-- An operation that answers one state inside a bound and an error above it has a property that state has. -/
theorem NextSatisfies.of_bound {P : State → Prop} {r : Result} {e : Fault} {a b : Nat} (hnext : a ≤ b → r = .next t)
    (hfault : a > b → r = .fault e) (ht : P t) : NextSatisfies P r := by
  rcases Nat.lt_or_ge b a with hab | hab
  · rw [hfault hab]; exact .fault e
  · rw [hnext hab]; exact .next ht

theorem storeAtIndex_keeps_run (vs : List Byte) (s : State) :
    NextSatisfies (·.run = s.run) (storeAtIndex vs s) := by
  rcases storeAtIndex_cases vs s with ⟨-, h⟩ | ⟨e, -, h⟩
  · rw [h]; exact .next rfl
  · rw [h]; exact .fault e

/-- FX0A is the only instruction that writes `run` (R31, R203). -/
theorem exec_keeps_run {i : Instr} (hi : ∀ x, i ≠ .ldVxK x) (s : State) :
    NextSatisfies (·.run = s.run) (exec i s) := by
  cases i with
  | ldVxK x => exact absurd rfl (hi x)
  | ret =>
    rcases Nat.eq_zero_or_pos s.SP.val with h | h
    · rw [exec_ret_empty s h]; exact .fault _
    · rw [exec_ret s h]; exact .next rfl
  | call nnn =>
    by_cases h : s.SP.val < 16
    · rw [exec_call s nnn h]; exact .next rfl
    · rw [exec_call_full s nnn (by omega)]; exact .fault _
  | jpV0 nnn => exact .of_bound (exec_jpV0 s nnn) (exec_jpV0_out s nnn) rfl
  | rnd x nn => exact .next (by simp)
  | addI x => exact .of_bound (exec_addI s x) (exec_addI_out s x) rfl
  | ldF x => exact .of_bound (exec_ldF s x) (exec_ldF_out s x) rfl
  | ldB | storeRegs => exact storeAtIndex_keeps_run _ s
  | loadRegs x => exact .of_bound (exec_loadRegs s x) (exec_loadRegs_out s x) (by simp)
  | drw x y n =>
    by_cases h : n.toNat = 0 ∨ s.I.toNat + n.toNat ≤ 0x1000
    · rw [exec_drw s x y n h]; exact .next rfl
    · rw [exec_drw_out s x y n (by omega) (by omega)]; exact .fault _
  | skp x => exact .of_bound (exec_skp s x) (exec_skp_out s x) rfl
  | sknp x => exact .of_bound (exec_sknp s x) (exec_sknp_out s x) rfl
  | _ => exact .next rfl

/-- An instruction executed in Running leaves the block awaiting exactly when it is an FX0A. -/
theorem exec_awaiting_iff {i : Instr} (hr : s.run = .running) (h : exec i s = .next t) :
    t.awaiting = true ↔ ∃ x, i = .ldVxK x := by
  by_cases hi : ∃ x, i = .ldVxK x
  · obtain ⟨x, rfl⟩ := hi
    rw [exec_ldVxK] at h
    cases h
    exact iff_of_true rfl ⟨x, rfl⟩
  · have hrun : t.run = s.run := exec_keeps_run (not_exists.1 hi) s t h
    exact iff_of_false (by simp [State.awaiting_iff, hrun, hr]) hi

/-- Settles O12, over what a successful step can have done: wait, complete a wait, or execute the decoded instruction. -/
theorem awaitingResultExactlyWhen : Obligations.AwaitingResultExactlyWhen := by
  unfold Obligations.AwaitingResultExactlyWhen
  intro s t h
  rw [wordAt_pc]
  rcases step_next_cases h with ⟨x, hr, rfl⟩ | ⟨x, k, hr, rfl⟩ | ⟨hr, -, i, hi, hx⟩
  · simp [State.awaiting_iff, hr]
  · simp [State.awaiting_iff, hr]
  · simp [exec_awaiting_iff hr hx, hr, hi]

end Sys2Proof.Machine
end

section
/-! PROOFS. The register skips 3XNN, 4XNN, 5XY0 and 9XY0 (41_control_flow.md R113 to R116). -/

namespace Sys2Proof.Machine

open Sys2Proof.Claims

section
variable (s : State)

/-- An instruction that only moves pc leaves every register and every other component. -/
theorem State.setPc_frame (v : Word) : KeepsRegsBut [] s (s.setPc v) ∧ KeepsBut [.pc] s (s.setPc v) := by
  refine ⟨fun r _ => rfl, fun c hc => ?_⟩
  cases c with
  | pc => exact absurd (List.mem_singleton_self _) hc
  | random => exact ⟨rfl, rfl⟩
  | memory => exact fun _ => rfl
  | _ => rfl

variable (a b : Byte)

/-- A skip on equal, compared as unsigned numbers (R113, R115). -/
theorem State.skipIf_beq_pc : (s.skipIf (a == b)).pc = if a.toNat = b.toNat then s.pc + 4 else s.pc + 2 := by
  simp [BitVec.toNat_inj]

/-- A skip on not equal, compared as unsigned numbers (R114, R116). -/
theorem State.skipIf_bne_pc : (s.skipIf (a != b)).pc = if a.toNat = b.toNat then s.pc + 2 else s.pc + 4 := by
  simp [BitVec.toNat_inj]

end

/-- Settles O28: each of the four is a skip on its own comparison, and a skip only moves pc. -/
theorem registerSkips : Obligations.RegisterSkips := by
  unfold Obligations.RegisterSkips
  intro s x y nn
  exact ⟨encodeXNN_mask .., encodeXNN_mask .., encodeXY_mask .., encodeXY_mask ..,
    ⟨_, exec_seImm s x nn, s.skipIf_beq_pc _ _, s.setPc_frame _⟩,
    ⟨_, exec_sneImm s x nn, s.skipIf_bne_pc _ _, s.setPc_frame _⟩,
    ⟨_, exec_seReg s x y, s.skipIf_beq_pc _ _, s.setPc_frame _⟩,
    ⟨_, exec_sneReg s x y, s.skipIf_bne_pc _ _, s.setPc_frame _⟩⟩

end Sys2Proof.Machine
end

section
/-! PROOFS. Register load, copy and immediate add: 6XNN, 7XNN and 8XY0 (42_alu.md R133 to R135). -/

namespace Sys2Proof.Machine

open Sys2Proof.Claims

/-- An instruction whose only destination is V[x] leaves every other register, VF too unless it is x (R23). -/
theorem State.setV_advance_keepsRegs (s : State) (x : Reg) (v : Byte) : KeepsRegsBut [x] s (s.setV x v).advance :=
  fun _ hr => s.getV_setV_other v (List.ne_of_not_mem_cons hr)

/-- Settles O30: both write V[x] and nothing else among the registers, the one nn, the other the old V[y]. -/
theorem loadAndCopy : Obligations.LoadAndCopy := by
  unfold Obligations.LoadAndCopy
  intro s x y nn
  exact ⟨encodeXNN_mask .., encodeXY_mask ..,
    ⟨_, exec_ldImm s x nn, s.getV_setV_same x _, State.advance_pc _, s.setV_advance_keepsRegs x _⟩,
    ⟨_, exec_ldReg s x y, s.getV_setV_same x _, State.advance_pc _, s.setV_advance_keepsRegs x _⟩⟩

/-- Settles O31: the sum is the addition of bytes, which is modulo 256, and V[x] is the only register written. -/
theorem addImmediateWraps : Obligations.AddImmediateWraps := by
  unfold Obligations.AddImmediateWraps
  intro s x nn
  refine ⟨encodeXNN_mask .., _, exec_addImm s x nn, ?_, State.advance_pc _, s.setV_advance_keepsRegs x _⟩
  rw [State.getV_advance, State.getV_setV_same, BitVec.toNat_add]

end Sys2Proof.Machine
end

section
/-! PROOFS. Index load: ANNN (43_index_memory.md R162). -/

namespace Sys2Proof.Machine

open Sys2Proof.Claims

/-- An instruction whose only destination is I leaves every register, VF too (R23). -/
theorem State.setI_advance_keepsRegs (s : State) (v : Word) : KeepsRegsBut [] s (s.setI v).advance :=
  fun r _ => s.getV_setI v r

/-- Settles O39: I is the address zero-extended, which keeps its number, and no register is written. -/
theorem loadIndex : Obligations.LoadIndex := by
  unfold Obligations.LoadIndex
  intro s nnn
  have hI : (nnn.setWidth 16).toNat = nnn.toNat := BitVec.toNat_setWidth_of_le (by decide)
  exact ⟨encodeNNN_mask .., _, exec_ldI s nnn, hI, State.advance_pc _, s.setI_advance_keepsRegs _⟩

end Sys2Proof.Machine
end

section
/-! PROOFS. Clear screen and the sprite blitter: 00E0 and DXYN (44_display.md R180 to R184). A draw inverts each cell of the
sprite at most once (R183), so its loop is the composition of draws over disjoint regions of the sprite. -/

namespace Sys2Proof.Machine

open Sys2Proof.Claims

/-! ### What a draw does to a canvas -/

section
variable {m m' : Fin 64 → Fin 32 → Bool} {d d' d'' : Canvas}

/-- `d'` is `d` after every cell of the mask was inverted once; a cell of the mask that was on is a collision (R182). -/
structure Draws (m : Fin 64 → Fin 32 → Bool) (d d' : Canvas) : Prop where
  pixel : ∀ px py, d'.fb.pixel px py = (d.fb.pixel px py ^^ m px py)
  collision : d'.collision = true ↔ d.collision = true ∨ ∃ px py, m px py = true ∧ d.fb.pixel px py = true

theorem Draws.of_empty (hm : ∀ px py, m px py = false) : Draws m d d where
  pixel px py := by simp [hm]
  collision := by simp [hm]

theorem Draws.of_toggle {x : Fin 64} {y : Fin 32} (hm : ∀ px py, m px py = decide (px = x ∧ py = y)) :
    Draws m d { fb := d.fb.toggle x y, collision := d.collision || d.fb.pixel x y } where
  pixel px py := by
    rw [Screen.pixel_toggle, hm]
    by_cases h : px = x ∧ py = y <;> simp [h]
  collision := by simp [hm, and_assoc]

/-- Two draws with no cell in common are one draw of both: the second sees the cells of its own mask as they were. -/
theorem Draws.union (h : Draws m d d') (h' : Draws m' d' d'') (hdisj : ∀ px py, m px py = true → m' px py = false) :
    Draws (fun px py => m px py || m' px py) d d'' where
  pixel px py := by
    rw [h'.pixel, h.pixel]
    cases hm : m px py with
    | true => simp [hdisj px py hm]
    | false => simp
  collision := by
    have seen (px py) (hm' : m' px py = true) : d'.fb.pixel px py = d.fb.pixel px py := by
      have hm : m px py = false := Bool.eq_false_iff.2 fun hm => by simp [hdisj px py hm] at hm'
      simp [h.pixel, hm]
    have : (∃ px py, m' px py = true ∧ d'.fb.pixel px py = true) ↔ ∃ px py, m' px py = true ∧ d.fb.pixel px py = true :=
      exists₂_congr fun px py => and_congr_right fun hm' => by rw [seen px py hm']
    rw [h'.collision, h.collision, this, or_assoc, ← exists_or]
    simp only [← exists_or, Bool.or_eq_true, or_and_right]

end

/-! ### The place of a cell in the sprite -/

/-- How many columns a cell lies right of column `x0`, with wraparound (R180). -/
def columnOffset (x0 : Nat) (px : Fin 64) : Nat := (px.val + 64 - x0 % 64) % 64

/-- How many rows a cell lies below row `y0`, with wraparound (R180). -/
def rowOffset (y0 : Nat) (py : Fin 32) : Nat := (py.val + 32 - y0 % 32) % 32

theorem eq_wrapColumn_iff {x0 c : Nat} (hc : c < 64) (px : Fin 64) : px = wrapColumn (x0 + c) ↔ columnOffset x0 px = c := by
  rw [Fin.ext_iff, wrapColumn_val, columnOffset]; omega

theorem eq_wrapRow_iff {y0 r : Nat} (hr : r < 32) (py : Fin 32) : py = wrapRow (y0 + r) ↔ rowOffset y0 py = r := by
  rw [Fin.ext_iff, wrapRow_val, rowOffset]; omega

/-- The set pixels of the sprite with rows `sprite 0`, `sprite 1`, … whose column and row in it lie in the region `p`. -/
def spriteMask (x0 y0 : Nat) (sprite : Nat → Byte) (p : Nat → Nat → Bool) (px : Fin 64) (py : Fin 32) : Bool :=
  p (columnOffset x0 px) (rowOffset y0 py) && (sprite (rowOffset y0 py)).getLsbD (7 - columnOffset x0 px)

/-! ### The blitter's loop (R183) -/

section
variable {x0 y0 : Nat} {sprite : Nat → Byte} {d d' d'' : Canvas}

/-- Draws over two disjoint regions of a sprite are one draw over the region they make up. -/
theorem Draws.union_region {p q pq : Nat → Nat → Bool} (h : Draws (spriteMask x0 y0 sprite p) d d')
    (h' : Draws (spriteMask x0 y0 sprite q) d' d'') (hdisj : ∀ c r, p c r = true → q c r = false)
    (hunion : ∀ c r, pq c r = (p c r || q c r)) : Draws (spriteMask x0 y0 sprite pq) d d'' := by
  have hmask : spriteMask x0 y0 sprite pq =
      fun px py => spriteMask x0 y0 sprite p px py || spriteMask x0 y0 sprite q px py := by
    funext px py
    simp only [spriteMask, hunion, Bool.and_or_distrib_right]
  rw [hmask]
  refine h.union h' fun px py hm => ?_
  have hp := (Bool.and_eq_true_iff.1 hm).1
  simp [spriteMask, hdisj _ _ hp]

theorem drawPixel_draws {c r : Nat} (hc : c < 64) (hr : r < 32) :
    Draws (spriteMask x0 y0 sprite fun c' r' => decide (c' = c ∧ r' = r)) d (drawPixel x0 y0 r (sprite r) d c) := by
  cases hbit : (sprite r).getLsbD (7 - c) with
  | false =>
    rw [drawPixel_clear hbit]
    refine .of_empty fun px py => ?_
    simp only [spriteMask, Bool.and_eq_false_imp, decide_eq_true_eq]
    rintro ⟨rfl, rfl⟩
    exact hbit
  | true =>
    rw [drawPixel_set hbit]
    refine .of_toggle fun px py => ?_
    rw [Bool.eq_iff_iff, decide_eq_true_iff, eq_wrapColumn_iff hc, eq_wrapRow_iff hr]
    simp only [spriteMask, Bool.and_eq_true, decide_eq_true_eq, and_iff_left_iff_imp]
    rintro ⟨rfl, rfl⟩
    exact hbit

/-- The first `k` columns of a row; no two of them fall on one cell as long as they are at most 64. -/
theorem drawPixels_draws {r k : Nat} (hr : r < 32) (hk : k ≤ 64) :
    Draws (spriteMask x0 y0 sprite fun c' r' => decide (c' < k ∧ r' = r)) d
      ((List.range k).foldl (drawPixel x0 y0 r (sprite r)) d) := by
  induction k with
  | zero => exact .of_empty fun px py => by simp [spriteMask]
  | succ k ih =>
    rw [List.range_succ, List.foldl_append]
    refine (ih (by omega)).union_region (drawPixel_draws (by omega) hr) (fun c' r' h => ?_) (fun c' r' => ?_)
    · simp only [decide_eq_true_eq, decide_eq_false_iff_not] at h ⊢; omega
    · rw [← Bool.decide_or, decide_eq_decide]; omega

theorem drawRow_draws {r : Nat} (hr : r < 32) :
    Draws (spriteMask x0 y0 sprite fun c' r' => decide (c' < 8 ∧ r' = r)) d (drawRow x0 y0 r (sprite r) d) :=
  drawPixels_draws hr (by decide)

/-- The `k` rows from row `r` on; no two of them fall on one row of cells as long as the sprite has at most 32. -/
theorem drawRows_draws {r k : Nat} (hk : r + k ≤ 32) :
    Draws (spriteMask x0 y0 sprite fun c' r' => decide (c' < 8 ∧ r ≤ r' ∧ r' < r + k)) d
      (drawRows x0 y0 r ((List.range' r k).map sprite) d) := by
  induction k generalizing r d with
  | zero => exact .of_empty fun px py => by simp [spriteMask]
  | succ k ih =>
    rw [List.range'_succ, List.map_cons, drawRows_cons]
    refine (drawRow_draws (by omega)).union_region (ih (by omega)) (fun c' r' h => ?_) (fun c' r' => ?_)
    · simp only [decide_eq_true_eq, decide_eq_false_iff_not] at h ⊢; omega
    · rw [← Bool.decide_or, decide_eq_decide]; omega

end

/-! ### The state after DXYN -/

theorem bool01_eq_one_iff (p : Bool) : bool01 p = 1 ↔ p = true := by cases p <;> decide

theorem bool01_eq_zero_iff (p : Bool) : bool01 p = 0 ↔ ¬p = true := by cases p <;> decide

section
variable (s : State) (x y : Reg) (n : BitVec 4)

/-- What DXYN has drawn when its loop ends. -/
def drawnCanvas : Canvas := drawSprite (startColumn x s) (startRow y s) (s.readBytes s.I.toNat n.toNat) s.fb

/-- The state DXYN answers when its sprite is in memory. -/
def State.afterDraw : State := ((s.setFb (drawnCanvas s x y n).fb).setFlag (drawnCanvas s x y n).collision).advance

theorem exec_drw_afterDraw (h : n.toNat = 0 ∨ s.I.toNat + n.toNat ≤ 0x1000) :
    exec (.drw x y n) s = .next (s.afterDraw x y n) := exec_drw s x y n h

@[simp] theorem State.afterDraw_I : (s.afterDraw x y n).I = s.I := rfl

@[simp] theorem State.readByte_afterDraw (a : Nat) : (s.afterDraw x y n).readByte a = s.readByte a := rfl

theorem State.getV_afterDraw_other {r : Reg} (hr : r ≠ VF) : (s.afterDraw x y n).getV r = s.getV r := by
  simp [State.afterDraw, State.getV_setFlag, hr]

/-- The mask DXYN draws is the one the statements name. -/
theorem drawnCanvas_draws : Draws (spritePixel x y n s) ⟨s.fb, false⟩ (drawnCanvas s x y n) := by
  have hmask : spritePixel x y n s = spriteMask (startColumn x s) (startRow y s) (fun r => s.readByte (s.I.toNat + r))
      fun c' r' => decide (c' < 8 ∧ 0 ≤ r' ∧ r' < 0 + n.toNat) := by
    funext px py
    simp [spritePixel, spriteMask, columnOffset, rowOffset, startColumn, startRow]
  rw [hmask, drawnCanvas, drawSprite, State.readBytes, List.range_eq_range']
  exact drawRows_draws (by have := n.isLt; omega)

theorem readFramebuffer_afterDraw (px : Fin 64) (py : Fin 32) :
    readFramebuffer px py (s.afterDraw x y n) = (readFramebuffer px py s ^^ spritePixel x y n s px py) :=
  (drawnCanvas_draws s x y n).pixel px py

theorem State.getV_afterDraw_flag : (s.afterDraw x y n).getV VF = bool01 (drawnCanvas s x y n).collision := by
  simp [State.afterDraw, State.getV_setFlag]

theorem drawnCanvas_collision_iff : (drawnCanvas s x y n).collision = true ↔
    ∃ px py, spritePixel x y n s px py = true ∧ readFramebuffer px py s = true := by
  simpa [readFramebuffer] using (drawnCanvas_draws s x y n).collision

/-- A draw moves neither the start coordinate nor the sprite bytes, unless VF is a coordinate (R184). -/
theorem spritePixel_afterDraw {x y : Reg} (hx : x ≠ VF) (hy : y ≠ VF) :
    spritePixel x y n (s.afterDraw x y n) = spritePixel x y n s := by
  funext px py
  simp only [spritePixel, s.getV_afterDraw_other x y n hx, s.getV_afterDraw_other x y n hy, State.readByte_afterDraw,
    State.afterDraw_I]

end

/-! ### The statements -/

/-- Settles O45: clear screen writes the framebuffer and pc only. -/
theorem clearTurnsEveryCellOff : Obligations.ClearTurnsEveryCellOff := by
  unfold Obligations.ClearTurnsEveryCellOff
  intro s
  exact ⟨rfl, _, exec_cls s, Screen.pixel_clear, State.advance_pc _, fun _ _ => rfl⟩

/-- Settles O46: the loop draws the mask of the sprite's pixels, and its collision is the flag. -/
theorem drawXorsTheSprite : Obligations.DrawXorsTheSprite := by
  unfold Obligations.DrawXorsTheSprite
  intro s x y n h
  refine ⟨_, exec_drw_afterDraw s x y n h, State.advance_pc _, readFramebuffer_afterDraw s x y n, fun hc => ?_, fun hc => ?_⟩
  · rwa [State.getV_afterDraw_flag, bool01_eq_one_iff, drawnCanvas_collision_iff]
  · rwa [State.getV_afterDraw_flag, bool01_eq_zero_iff, drawnCanvas_collision_iff]

/-- Settles O47: both draws have one mask, so each cell is inverted twice or not at all, and the second draw collides on the
cells of the mask that were off at first. -/
theorem drawTwiceRestoresTheScreen : Obligations.DrawTwiceRestoresTheScreen := by
  unfold Obligations.DrawTwiceRestoresTheScreen
  intro s x y n hx hy h
  have hmask := spritePixel_afterDraw s n hx hy
  refine ⟨_, _, exec_drw_afterDraw s x y n h, exec_drw_afterDraw (s.afterDraw x y n) x y n h, ?_, ?_⟩
  · refine Screen.ext_pixel fun px py => ?_
    change readFramebuffer px py _ = readFramebuffer px py s
    rw [readFramebuffer_afterDraw, readFramebuffer_afterDraw, hmask, Bool.xor_assoc, Bool.xor_self, Bool.xor_false]
  · rw [State.getV_afterDraw_flag, bool01_eq_one_iff, drawnCanvas_collision_iff, hmask]
    refine exists₂_congr fun px py => and_congr_left fun hon => ?_
    rw [readFramebuffer_afterDraw] at hon
    cases hold : readFramebuffer px py s <;> simpa [hold] using hon

end Sys2Proof.Machine
end

section
/-! PROOFS. The timer forms FX07, FX15 and FX18 (45_timers_keys.md R202, R204 and R205), over what each write adds to the
components changed so far. -/

namespace Sys2Proof.Claims

open Sys2Proof.Machine

theorem KeepsBut.refl (s : State) : KeepsBut [] s s := by
  intro c _
  cases c with
  | random => exact ⟨rfl, rfl⟩
  | memory => exact fun _ => rfl
  | _ => rfl

section
variable {cs : List Comp} {s t : State} (h : KeepsBut cs s t)
include h

/-- A write to a general register changes no further component (R22). -/
theorem KeepsBut.setV (x : Reg) (v : Byte) : KeepsBut cs s (t.setV x v) := by
  intro c hc
  have hkept := h c hc
  cases c with
  | _ => exact hkept

/-- A write to DT changes DT and no further component (R28). -/
theorem KeepsBut.setDT (v : Byte) : KeepsBut (.DT :: cs) s (t.setDT v) := by
  intro c hc
  have hkept := h c (List.not_mem_of_not_mem_cons hc)
  cases c with
  | DT => exact absurd rfl (List.ne_of_not_mem_cons hc)
  | _ => exact hkept

/-- A write to ST changes ST and no further component (R28). -/
theorem KeepsBut.setST (v : Byte) : KeepsBut (.ST :: cs) s (t.setST v) := by
  intro c hc
  have hkept := h c (List.not_mem_of_not_mem_cons hc)
  cases c with
  | ST => exact absurd rfl (List.ne_of_not_mem_cons hc)
  | _ => exact hkept

/-- Going on to the next instruction changes pc and no further component (R96). -/
theorem KeepsBut.advance : KeepsBut (.pc :: cs) s t.advance := by
  intro c hc
  have hkept := h c (List.not_mem_of_not_mem_cons hc)
  cases c with
  | pc => exact absurd rfl (List.ne_of_not_mem_cons hc)
  | _ => exact hkept

end

end Sys2Proof.Claims

namespace Sys2Proof.Machine

open Sys2Proof.Claims

/-- Settles O49: each of the three is one write, to V[x], to DT or to ST, and the advance of pc. -/
theorem timerReadAndWrites : Obligations.TimerReadAndWrites := by
  unfold Obligations.TimerReadAndWrites
  intro s x
  have hkept := KeepsBut.refl s
  exact ⟨encodeX_mask .., encodeX_mask .., encodeX_mask ..,
    ⟨_, exec_ldVxDT s x, s.getV_setV_same x _, State.advance_pc _, s.setV_advance_keepsRegs x _,
      (hkept.setV x _).advance⟩,
    ⟨_, exec_ldDTVx s x, s.setDT_DT _, State.advance_pc _, fun r _ => s.getV_setDT (s.getV x) r,
      (hkept.setDT _).advance⟩,
    ⟨_, exec_ldSTVx s x, s.setST_ST _, State.advance_pc _, fun r _ => s.getV_setST (s.getV x) r,
      (hkept.setST _).advance⟩⟩

end Sys2Proof.Machine
end

section
/-! PROOFS. Every schedule of host operations keeps the invariant (60_exceptions.md R240, R241). -/

namespace Sys2Proof.Machine

/-- What an operation leaves has a property of the state it began in, if the next state it may answer has it (R97). -/
theorem NextSatisfies.stateAfter {P : State → Prop} {s : State} {r : Result} (h : NextSatisfies P r) (hs : P s) :
    P (stateAfter s r) := by
  cases r with
  | next t => exact h t rfl
  | fault | refused => exact hs

/-- A property that every operation of the host keeps holds after every schedule. -/
theorem runPorts_keeps {P : State → Prop} (hport : ∀ (p : Port) (s : State), P s → NextSatisfies P (applyPort p s))
    (ps : List Port) {s : State} (hs : P s) : P (runPorts ps s) := by
  induction ps generalizing s with
  | nil => exact hs
  | cons p ps ih => exact ih ((hport p s hs).stateAfter hs)

/-! ### The operations of the host -/

@[simp] theorem Run.latch_running (k : Key) : Run.running.latch k = .running := rfl
@[simp] theorem Run.latch_waiting (k : Key) (x : Reg) :
    (Run.awaitingKey x none).latch k = .awaitingKey x (some k) := rfl
@[simp] theorem Run.latch_latched (k : Key) (x : Reg) (l : Key) :
    (Run.awaitingKey x (some l)).latch k = .awaitingKey x (some l) := rfl

/-- A press neither begins nor ends a wait (R243). -/
theorem Run.latch_eq_running_iff (k : Key) (r : Run) : r.latch k = .running ↔ r = .running := by
  rcases r with _ | ⟨x, _ | l⟩ <;> simp

/-- A press of a held key is no transition (R243, D17). -/
theorem pressKey_held {k : Key} {s : State} (h : s.getKey k = true) : pressKey k s = s := if_pos h

theorem pressKey_released {k : Key} {s : State} (h : s.getKey k = false) :
    pressKey k s = (s.setKey k true).setRun (s.run.latch k) := if_neg (by simp [h])

theorem loadProgram_too_large {image : List Byte} (s : State) (h : image.length > Config.maxProgram) :
    loadProgram image s = .fault (.programTooLarge image.length) := if_pos h

theorem loadProgram_next {image : List Byte} (s : State) (h : image.length ≤ Config.maxProgram) :
    loadProgram image s = .next (s.writeBytes Config.programOrigin image) := if_neg (Nat.not_lt.2 h)

variable {s : State}

theorem State.Inv.setKey (hi : s.Inv) (k : Key) (v : Bool) : (s.setKey k v).Inv := hi.congr rfl rfl rfl rfl rfl
theorem State.Inv.supplyDraw (hi : s.Inv) (r : Byte) : (supplyDraw r s).Inv := hi.congr rfl rfl rfl rfl rfl
theorem State.Inv.tickTimers (hi : s.Inv) : (tickTimers s).Inv := (hi.setDT _).setST _

/-- A latched wait is still a wait, so its `pc` is still fetchable. -/
theorem State.Inv.latch (hi : s.Inv) (k : Key) : (s.setRun (s.run.latch k)).Inv :=
  { hi with waiting_fetchable := fun h => hi.waiting_fetchable (mt (Run.latch_eq_running_iff k s.run).2 h) }

theorem State.Inv.pressKey (hi : s.Inv) (k : Key) : (pressKey k s).Inv := by
  cases h : s.getKey k with
  | true => rw [pressKey_held h]; exact hi
  | false => rw [pressKey_released h]; exact (hi.setKey k true).latch k

/-- A load of at most 3584 bytes ends inside the block, and a longer one writes nothing (R225, R262). -/
theorem loadProgram_keeps_inv (hi : s.Inv) (image : List Byte) : NextSatisfies State.Inv (loadProgram image s) := by
  rcases Nat.lt_or_ge Config.maxProgram image.length with h | h
  · rw [loadProgram_too_large s h]; exact .fault _
  · rw [loadProgram_next s h]
    have hend : Config.programOrigin + image.length ≤ 0x1000 := Nat.add_le_add_left h _
    exact .next (hi.writeBytes hend)

/-- Every operation of the host keeps the invariant. -/
theorem applyPort_keeps_inv (p : Port) (s : State) (hi : s.Inv) : NextSatisfies State.Inv (applyPort p s) := by
  cases p with
  | load image => exact loadProgram_keeps_inv hi image
  | step => exact fun t h => stepKeepsTheInvariant s t hi h
  | tick => exact .next hi.tickTimers
  | press k => exact .next (hi.pressKey k)
  | release k => exact .next (hi.setKey k false)
  | readFb => exact .next hi
  | supply r => exact .next (hi.supplyDraw r)

/-- Settles O58, by induction on the schedule. -/
theorem everyScheduleKeepsTheInvariant : Obligations.EveryScheduleKeepsTheInvariant := by
  unfold Obligations.EveryScheduleKeepsTheInvariant
  exact fun ps _ hi => runPorts_keeps applyPort_keeps_inv ps hi

end Sys2Proof.Machine
end

section
/-! PROOFS. Who raises which error (60_exceptions.md R220 to R225): an instruction answers the error of its own check or
completes, and a step adds to it the errors of its fetch and decode. -/

namespace Sys2Proof.Machine

open Sys2Proof.Claims

/-- An operation whose check is `o` answers the check's error, or a next state where the check passes. -/
def AnswersCheck (r : Result) : Option Fault → Prop
  | none => ∃ t, r = .next t
  | some e => r = .fault e

theorem AnswersCheck.fault_iff {r : Result} {o : Option Fault} (h : AnswersCheck r o) (e : Fault) :
    r = .fault e ↔ o = some e := by
  cases o with
  | none => obtain ⟨t, rfl⟩ := h; simp
  | some e' => cases h; simp

/-- An operation that answers an error where a condition holds, and a next state where it does not. -/
theorem AnswersCheck.of_ite {c : Prop} [Decidable c] {r : Result} {e : Fault} (hfault : c → r = .fault e)
    (hnext : ¬c → ∃ t, r = .next t) : AnswersCheck r (if c then some e else none) := by
  by_cases h : c
  · rw [if_pos h]; exact hfault h
  · rw [if_neg h]; exact hnext h

/-- An operation that answers one state inside a bound and an error above it, checked against that bound. -/
theorem AnswersCheck.of_bound {r : Result} {e : Fault} {t : State} {a b : Nat} (hnext : a ≤ b → r = .next t)
    (hfault : a > b → r = .fault e) : AnswersCheck r (if a > b then some e else none) :=
  .of_ite hfault fun h => ⟨t, hnext (Nat.le_of_not_lt h)⟩

/-- A store at `I` of the `k + 1` bytes `vs` fails exactly where the last of them is above 0xFFF (R160). -/
theorem storeAtIndex_answersCheck {vs : List Byte} {k : Nat} (hk : vs.length = k + 1) (s : State) :
    AnswersCheck (storeAtIndex vs s)
      (if s.I.toNat + k > 0xFFF then some (.addressOutOfRange (s.I.toNat + k)) else none) :=
  .of_bound (fun h => storeAtIndex_next s vs (by omega)) fun h => by
    rw [storeAtIndex_out s vs (by omega) (by omega), hk]; rfl

/-- Every instruction answers the error of its own check, or completes where it passes or there is none (R98). -/
theorem exec_answersCheck (i : Instr) (s : State) : AnswersCheck (exec i s) (errorOf i s) := by
  cases i with
  | ret => exact .of_ite (exec_ret_empty s) fun h => ⟨_, exec_ret s (Nat.pos_of_ne_zero h)⟩
  | call nnn => exact .of_ite (exec_call_full s nnn) fun h => ⟨_, exec_call s nnn (by omega)⟩
  | jpV0 nnn => exact .of_bound (exec_jpV0 s nnn) (exec_jpV0_out s nnn)
  | addI x => exact .of_bound (exec_addI s x) (exec_addI_out s x)
  | ldF x => exact .of_bound (exec_ldF s x) (exec_ldF_out s x)
  | ldB x =>
    have hbound : s.I.toNat > 0xFFD ↔ s.I.toNat + 2 > 0xFFF := by omega
    simp only [errorOf, hbound]
    exact storeAtIndex_answersCheck (bcdDigits_length _) s
  | storeRegs x => exact storeAtIndex_answersCheck (s.getVs_length x) s
  | loadRegs x => exact .of_bound (exec_loadRegs s x) (exec_loadRegs_out s x)
  | drw x y n =>
    exact .of_ite (fun h => exec_drw_out s x y n (by omega) (by omega)) fun h => ⟨_, exec_drw s x y n (by omega)⟩
  | skp x => exact .of_bound (exec_skp s x) (exec_skp_out s x)
  | sknp x => exact .of_bound (exec_sknp s x) (exec_sknp_out s x)
  | _ => exact ⟨_, rfl⟩

/-- ProgramTooLarge is the error of no instruction's check (R225). -/
theorem errorOf_ne_programTooLarge (i : Instr) (s : State) (n : Nat) : errorOf i s ≠ some (.programTooLarge n) := by
  cases i with
  | ret | call | jpV0 | addI | ldF | ldB | storeRegs | loadRegs | drw | skp | sknp => simp [errorOf]
  | _ => nofun

/-- An answer a step can give: a next state, or an error that is not the load operation's (R220). -/
def StepAnswer : Result → Prop
  | .next _ => True
  | .fault e => ∀ n, e ≠ .programTooLarge n
  | .refused _ => False

theorem AnswersCheck.stepAnswer {r : Result} {o : Option Fault} (h : AnswersCheck r o)
    (ho : ∀ n, o ≠ some (.programTooLarge n)) : StepAnswer r := by
  cases o with
  | none => obtain ⟨t, rfl⟩ := h; trivial
  | some e => cases h; exact fun n he => ho n (congrArg some he)

theorem step_stepAnswer (s : State) : StepAnswer (step s) := by
  rcases hr : s.run with _ | ⟨x, _ | k⟩
  · rcases Nat.lt_or_ge 0xFFE s.pc.toNat with hp | hp
    · rw [step_unfetchable hr hp]; exact nofun
    · rw [step_running hr hp]
      cases decodeWord s.fetchWord with
      | none => exact nofun
      | some i => exact (exec_answersCheck i s).stepAnswer (errorOf_ne_programTooLarge i s)
  · rw [step_idle hr]; trivial
  · rw [step_complete hr]; trivial

/-- Settles O14: a wait, a fetch, a decode and an instruction's own check give no other answer. -/
theorem stepNeverRefusesNorSaysTooLarge : Obligations.StepNeverRefusesNorSaysTooLarge := by
  unfold Obligations.StepNeverRefusesNorSaysTooLarge
  intro s
  have hanswer := step_stepAnswer s
  refine ⟨fun r h => ?_, fun n h => ?_⟩
  · rw [h] at hanswer; exact hanswer
  · rw [h] at hanswer; exact hanswer n rfl

/-- Settles O24: the check of 2NNN is SP = 16, that of 00EE is SP = 0. -/
theorem stackErrorsExactlyWhen : Obligations.StackErrorsExactlyWhen := by
  unfold Obligations.StackErrorsExactlyWhen
  intro s nnn
  rw [(exec_answersCheck (.call nnn) s).fault_iff, (exec_answersCheck .ret s).fault_iff]
  simp [errorOf]

end Sys2Proof.Machine
end

section
/-! PROOFS. The tick and the key ports (60_exceptions.md R242 to R244), over what each write adds to the components changed
so far. -/

namespace Sys2Proof.Claims

open Sys2Proof.Machine

section
variable {cs : List Comp} {s t : State} (h : KeepsBut cs s t)
include h

/-- A frame may list more components than were changed, in any order. -/
theorem KeepsBut.mono {cs' : List Comp} (hsub : cs ⊆ cs') : KeepsBut cs' s t :=
  fun c hc => h c (mt (@hsub c) hc)

/-- A write to a key latch changes the latches and no further component (R29). -/
theorem KeepsBut.setKey (k : Key) (v : Bool) : KeepsBut (.key :: cs) s (t.setKey k v) := by
  intro c hc
  have hkept := h c (List.not_mem_of_not_mem_cons hc)
  cases c with
  | key => exact absurd rfl (List.ne_of_not_mem_cons hc)
  | _ => exact hkept

/-- A write to the run sub-state changes it and no further component (R31). -/
theorem KeepsBut.setRun (v : Run) : KeepsBut (.run :: cs) s (t.setRun v) := by
  intro c hc
  have hkept := h c (List.not_mem_of_not_mem_cons hc)
  cases c with
  | run => exact absurd rfl (List.ne_of_not_mem_cons hc)
  | _ => exact hkept

end

end Sys2Proof.Claims

namespace Sys2Proof.Machine

open Sys2Proof.Claims

variable (s : State) (k : Key)

/-! ### The tick -/

/-- A timer's count is the truncated subtraction of 1 (R242). -/
theorem countDown_toNat (t : Byte) : (countDown t).toNat = t.toNat - 1 := by
  unfold countDown
  split <;> bv_omega

/-- Settles O52: a tick is two writes, to DT and to ST. -/
theorem tickCountsDownToZero : Obligations.TickCountsDownToZero := by
  unfold Obligations.TickCountsDownToZero
  exact fun s => ⟨countDown_toNat s.DT, countDown_toNat s.ST, fun _ _ => rfl,
    (((KeepsBut.refl s).setDT _).setST _).mono (by decide)⟩

/-! ### The keys -/

theorem pressKey_getKey (j : Key) : (pressKey k s).getKey j = if j = k then true else s.getKey j := by
  cases h : s.getKey k with
  | true =>
    rw [pressKey_held h]
    split
    next hj => rw [hj, h]
    next => rfl
  | false => rw [pressKey_released h, State.getKey_setRun, State.getKey_setKey]

/-- A press leaves every sub-state that latching leaves: a latched wait and Running. -/
theorem pressKey_run {s : State} (h : s.run.latch k = s.run) : (pressKey k s).run = s.run := by
  cases hk : s.getKey k with
  | true => rw [pressKey_held hk]
  | false => rw [pressKey_released hk, State.setRun_run, h]

/-- A press writes the latches and the sub-state only. -/
theorem pressKey_frame : KeepsRegsBut [] s (pressKey k s) ∧ KeepsBut [.key, .run] s (pressKey k s) := by
  have hkept := KeepsBut.refl s
  cases h : s.getKey k with
  | true => rw [pressKey_held h]; exact ⟨fun _ _ => rfl, hkept.mono (List.nil_subset _)⟩
  | false => rw [pressKey_released h]; exact ⟨fun _ _ => rfl, ((hkept.setKey k _).setRun _).mono (by decide)⟩

/-- Settles O53, over a press of a held key, which is none, and of a released one, which is two writes. -/
theorem keyPressAndRelease : Obligations.KeyPressAndRelease := by
  unfold Obligations.KeyPressAndRelease
  intro s k
  obtain ⟨hregs, hcomps⟩ := pressKey_frame s k
  refine ⟨pressKey_getKey s k, fun x hr hk => ?_, pressKey_held, fun x l hr => pressKey_run k ?_,
    fun hr => (pressKey_run k ?_).trans hr, fun j => s.getKey_setKey j k false, hregs, hcomps,
    fun _ _ => rfl, (KeepsBut.refl s).setKey k false⟩
  · rw [pressKey_released hk, State.setRun_run, hr, Run.latch_waiting]
  · rw [hr, Run.latch_latched]
  · rw [hr, Run.latch_running]

end Sys2Proof.Machine
end

section
/-! PROOFS. The load operation (70_reset_and_hazards.md R262): a write of consecutive bytes, or ProgramTooLarge. -/

namespace Sys2Proof.Claims

open Sys2Proof.Machine

/-- A write to memory changes it and no further component (R51). -/
theorem KeepsBut.writeBytes {cs : List Comp} {s t : State} (h : KeepsBut cs s t) (a : Nat) (vs : List Byte) :
    KeepsBut (.memory :: cs) s (t.writeBytes a vs) := by
  intro c hc
  have hkept := h c (List.not_mem_of_not_mem_cons hc)
  cases c with
  | memory => exact absurd rfl (List.ne_of_not_mem_cons hc)
  | _ => exact hkept

end Sys2Proof.Claims

namespace Sys2Proof.Machine

open Sys2Proof.Claims

section
variable (s : State) (a : Nat) (vs : List Byte)

/-- Consecutive writes from `a` up leave byte `j` of the list at `a + j` (R51). -/
theorem State.readByte_writeBytes_add (j : Nat) (h : j < vs.length) : (s.writeBytes a vs).readByte (a + j) = vs[j] := by
  have hin : a ≤ a + j ∧ a + j < a + vs.length := by omega
  rw [s.readByte_writeBytes, dif_pos hin]
  simp

/-- Consecutive writes from `a` up leave every byte outside their span (R51). -/
theorem State.writeBytes_keepsBytesOutside : KeepsBytesOutside a vs.length s (s.writeBytes a vs) := by
  intro b hb
  rw [s.readByte_writeBytes, dif_neg hb]

end

/-- Settles O54: a load inside the bound is one write of consecutive bytes from 0x200 up. -/
theorem loadProgramCopiesTheImage : Obligations.LoadProgramCopiesTheImage := by
  unfold Obligations.LoadProgramCopiesTheImage
  intro s image
  refine ⟨fun hfits => ⟨_, loadProgram_next s hfits, ?_⟩, loadProgram_too_large s⟩
  exact ⟨s.readByte_writeBytes_add 0x200 image, s.writeBytes_keepsBytesOutside 0x200 image,
    fun r _ => s.getV_writeBytes 0x200 image r, (KeepsBut.refl s).writeBytes 0x200 image⟩

end Sys2Proof.Machine
end

section
/-! PROOFS. An instruction completes unless its own check fails (40_execution_cycle.md R98), and what the fetch check stops
(R93). -/

namespace Sys2Proof.Machine

open Sys2Proof.Claims

/-- Settles O13: the answer is that of the instruction's own check. -/
theorem everyInstructionCompletesUnlessItsCheckFails : Obligations.EveryInstructionCompletesUnlessItsCheckFails := by
  unfold Obligations.EveryInstructionCompletesUnlessItsCheckFails
  intro i s
  have hanswer := exec_answersCheck i s
  refine ⟨hanswer.fault_iff, fun hpass => ?_⟩
  rwa [hpass] at hanswer

/-- The error of a failing check is what the instruction answers (R98). -/
theorem exec_fault_of_check {i : Instr} {s : State} {e : Fault} (h : errorOf i s = some e) : exec i s = .fault e :=
  ((exec_answersCheck i s).fault_iff e).2 h

/-- Settles O9. -/
theorem fetchAboveTheTopStopsTheStep : Obligations.FetchAboveTheTopStopsTheStep := by
  unfold Obligations.FetchAboveTheTopStopsTheStep
  exact fun _ => step_unfetchable

end Sys2Proof.Machine
end

section
/-! PROOFS. An error of a step outlives every host operation but a load (60_exceptions.md R221, R228): the checks of a step
read `run`, `pc`, memory, the registers, `I` and SP, and a step that fails writes nothing. -/

namespace Sys2Proof.Claims

open Sys2Proof.Machine

section
variable {cs : List Comp} {s t : State} (h : KeepsBut cs s t)
include h

/-- An operation that keeps every component but `c` adds `c` to those changed so far. -/
theorem KeepsBut.cons {c : Comp} {t' : State} (hop : ∀ d, d ≠ c → Keeps d s t → Keeps d s t') :
    KeepsBut (c :: cs) s t' :=
  fun d hd => hop d (List.ne_of_not_mem_cons hd) (h d (List.not_mem_of_not_mem_cons hd))

/-- A byte supplied for CXNN changes the random byte and no further component (R33). -/
theorem KeepsBut.supplyDraw (r : Byte) : KeepsBut (.random :: cs) s (supplyDraw r t) :=
  h.cons fun d hd hkept => by
    cases d with
    | random => exact absurd rfl hd
    | _ => exact hkept

end

end Sys2Proof.Claims

namespace Sys2Proof.Machine

open Sys2Proof.Claims

/-! ### What the checks read -/

section
variable {s s' : State}

/-- An instruction's own check reads the registers, `I` and SP only. -/
theorem errorOf_congr (hV : s'.V = s.V) (hI : s'.I = s.I) (hSP : s'.SP = s.SP) (i : Instr) : errorOf i s' = errorOf i s := by
  have hgetV := State.getV_congr hV
  simp only [errorOf, hgetV, hI, hSP]

/-- Two operations with the same check answer the same error, or both complete. -/
theorem AnswersCheck.sameAnswer {r r' : Result} {o : Option Fault} (h : AnswersCheck r o) (h' : AnswersCheck r' o) :
    SameAnswer (fun _ _ => True) r r' := by
  cases o with
  | none => obtain ⟨t, rfl⟩ := h; obtain ⟨t', rfl⟩ := h'; exact .next trivial
  | some e => cases h; cases h'; exact .fault e

/-- The error of a step is the same in a state with the same `run`, `pc`, memory, registers, `I` and SP. -/
theorem step_fault_congr {e : Fault} (h : step s = .fault e) (hrun : s'.run = s.run) (hpc : s'.pc = s.pc)
    (hmem : s'.memory = s.memory) (hV : s'.V = s.V) (hI : s'.I = s.I) (hSP : s'.SP = s.SP) : step s' = .fault e := by
  have hexec (i) : SameAnswer (fun _ _ => True) (exec i s) (exec i s') :=
    (exec_answersCheck i s).sameAnswer (errorOf_congr hV hI hSP i ▸ exec_answersCheck i s')
  exact (step_sameAnswer hrun hpc hmem trivial (fun _ _ => trivial) hexec).1 e h

/-- A waiting step never fails (R91, R92). -/
theorem run_of_step_fault {e : Fault} (h : step s = .fault e) : s.run = .running := by
  rcases hr : s.run with _ | ⟨x, _ | k⟩
  · rfl
  · rw [step_idle hr] at h; cases h
  · rw [step_complete hr] at h; cases h

end

/-- A press in Running writes the latch only: no wait is there to end (R243). -/
theorem pressKey_running {s : State} (hr : s.run = .running) (k : Key) : pressKey k s = s ∨ pressKey k s = s.setKey k true := by
  cases hk : s.getKey k with
  | true => exact .inl (pressKey_held hk)
  | false =>
    right
    rw [pressKey_released hk, hr, Run.latch_running, ← hr]
    rfl

/-! ### The schedule -/

/-- The block stands where it stood when its step answered `e`, and its step answers `e` still. -/
structure StoppedAsAt (s : State) (e : Fault) (t : State) : Prop where
  error : step t = .fault e
  regs : KeepsRegsBut [] s t
  comps : KeepsBut [.DT, .ST, .key, .random] s t

section
variable {s t : State} {e : Fault} (h : StoppedAsAt s e t)
include h

theorem StoppedAsAt.tickTimers : StoppedAsAt s e (tickTimers t) where
  error := step_fault_congr h.error rfl rfl rfl rfl rfl rfl
  regs := h.regs
  comps := ((h.comps.setDT _).setST _).mono (by decide)

theorem StoppedAsAt.setKey (k : Key) (v : Bool) : StoppedAsAt s e (t.setKey k v) where
  error := step_fault_congr h.error rfl rfl rfl rfl rfl rfl
  regs := h.regs
  comps := (h.comps.setKey k v).mono (by decide)

theorem StoppedAsAt.supplyDraw (r : Byte) : StoppedAsAt s e (supplyDraw r t) where
  error := step_fault_congr h.error rfl rfl rfl rfl rfl rfl
  regs := h.regs
  comps := (h.comps.supplyDraw r).mono (by decide)

/-- Every operation of the host but a load leaves the block stopped. -/
theorem StoppedAsAt.applyPort {p : Port} (hp : ∀ image, p ≠ .load image) :
    NextSatisfies (StoppedAsAt s e) (applyPort p t) := by
  cases p with
  | load image => exact absurd rfl (hp image)
  | step => rw [Machine.applyPort, h.error]; exact .fault e
  | tick => exact .next h.tickTimers
  | press k =>
    refine .next ?_
    rcases pressKey_running (run_of_step_fault h.error) k with hpress | hpress
    · rw [hpress]; exact h
    · rw [hpress]; exact h.setKey k true
  | release k => exact .next (h.setKey k false)
  | readFb => exact .next h
  | supply r => exact .next (h.supplyDraw r)

end

/-- A property that each operation of a schedule keeps holds after the schedule. -/
theorem runPorts_keeps_of_mem {P : State → Prop} {ps : List Port}
    (hport : ∀ p ∈ ps, ∀ s, P s → NextSatisfies P (applyPort p s)) {s : State} (hs : P s) : P (runPorts ps s) := by
  induction ps generalizing s with
  | nil => exact hs
  | cons p ps ih =>
    have hnext := (hport p List.mem_cons_self s hs).stateAfter hs
    exact ih (fun q hq => hport q (List.mem_cons_of_mem p hq)) hnext

/-- Settles O16, by induction on the schedule. -/
theorem errorPersistsUntilTheHostLoads : Obligations.ErrorPersistsUntilTheHostLoads := by
  unfold Obligations.ErrorPersistsUntilTheHostLoads
  intro s e ps herror hload
  have hstart : StoppedAsAt s e s := ⟨herror, fun _ _ => rfl, (KeepsBut.refl s).mono (List.nil_subset _)⟩
  have hport (p) (hp : p ∈ ps) (t) (ht : StoppedAsAt s e t) : NextSatisfies (StoppedAsAt s e) (applyPort p t) :=
    ht.applyPort fun image hi => hload image (hi ▸ hp)
  obtain ⟨hstill, hregs, hcomps⟩ := runPorts_keeps_of_mem hport hstart
  exact ⟨hstill, hregs, hcomps⟩

end Sys2Proof.Machine
end

section
/-! SUPPORT. A property of the next state of an instruction with a check, from the state it answers where the check passes. -/

namespace Sys2Proof.Machine

variable {P : State → Prop} {s : State}

theorem NextSatisfies.ret (h : ∀ hSP : 0 < s.SP.val, P (s.pop.setPc ((s.top hSP).setWidth 16 + 2))) :
    NextSatisfies P (exec .ret s) := by
  rcases Nat.eq_zero_or_pos s.SP.val with hSP | hSP
  · rw [exec_ret_empty s hSP]; exact .fault _
  · rw [exec_ret s hSP]; exact .next (h hSP)

theorem NextSatisfies.call {nnn : Addr}
    (h : ∀ hSP : s.SP.val < 16, P ((s.push (s.pc.setWidth 12) hSP).setPc (nnn.setWidth 16))) :
    NextSatisfies P (exec (.call nnn) s) := by
  by_cases hSP : s.SP.val < 16
  · rw [exec_call s nnn hSP]; exact .next (h hSP)
  · rw [exec_call_full s nnn (by omega)]; exact .fault _

theorem NextSatisfies.drw {x y : Reg} {n : BitVec 4} (h : P (s.afterDraw x y n)) : NextSatisfies P (exec (.drw x y n) s) := by
  by_cases hfits : n.toNat = 0 ∨ s.I.toNat + n.toNat ≤ 0x1000
  · rw [exec_drw_afterDraw s x y n hfits]; exact .next h
  · rw [exec_drw_out s x y n (by omega) (by omega)]; exact .fault _

theorem NextSatisfies.storeAtIndex {vs : List Byte} (h : P (s.writeBytes (indexBase s) vs).advance) :
    NextSatisfies P (storeAtIndex vs s) := by
  rcases storeAtIndex_cases vs s with ⟨-, hnext⟩ | ⟨e, -, hfault⟩
  · rw [hnext]; exact .next h
  · rw [hfault]; exact .fault e

end Sys2Proof.Machine
end

section
/-! PROOFS. The pc every instruction leaves (40_execution_cycle.md R96, R100). -/

namespace Sys2Proof.Machine

open Sys2Proof.Claims

variable (s : State)

/-- A skip leaves the pc the rules say, of a condition that holds exactly when the test does (R100). -/
theorem State.skipIf_pc_eq_skipPc {b : Bool} {p : Prop} [Decidable p] (h : b = true ↔ p) :
    (s.skipIf b).pc = skipPc s p := by
  simp [skipPc, h]

/-- The address a return goes to: the entry below SP, plus 2, with no carry out of 16 bits (R110). -/
theorem State.returnPc (hSP : 0 < s.SP.val) :
    (s.top hSP).setWidth 16 + 2 = BitVec.ofNat 16 (((s.stack[s.SP.val - 1]?).getD 0).toNat + 2) := by
  have htop : s.stack[s.SP.val - 1]? = some (s.top hSP) := Vector.getElem?_eq_getElem (by omega)
  rw [htop, Option.getD_some]
  bv_omega

/-- Every instruction that answers a next state leaves the pc its rule says. -/
theorem exec_pc (i : Instr) : NextSatisfies (·.pc = nextPc i s) (exec i s) := by
  cases i with
  | ret => exact .ret s.returnPc
  | call => exact .call fun _ => rfl
  | jpV0 nnn => exact .of_bound (exec_jpV0 s nnn) (exec_jpV0_out s nnn) rfl
  | seImm | seReg => exact .next (s.skipIf_pc_eq_skipPc beq_iff_eq)
  | sneImm | sneReg => exact .next (s.skipIf_pc_eq_skipPc bne_iff_ne)
  | rnd => exact .next (by simp [nextPc])
  | addI x => exact .of_bound (exec_addI s x) (exec_addI_out s x) rfl
  | ldF x => exact .of_bound (exec_ldF s x) (exec_ldF_out s x) rfl
  | ldB | storeRegs => exact .storeAtIndex rfl
  | loadRegs x => exact .of_bound (exec_loadRegs s x) (exec_loadRegs_out s x) (by simp [nextPc])
  | drw => exact .drw rfl
  | skp x => exact .of_bound (exec_skp s x) (exec_skp_out s x) (s.skipIf_pc_eq_skipPc Iff.rfl)
  | sknp x =>
    exact .of_bound (exec_sknp s x) (exec_sknp_out s x) (s.skipIf_pc_eq_skipPc (Bool.not_eq_true' _).to_iff)
  | _ => exact .next rfl

/-- Settles O15: the pc of every instruction, and of the step that completes an FX0A. -/
theorem nextPcOfEveryInstruction : Obligations.NextPcOfEveryInstruction := by
  unfold Obligations.NextPcOfEveryInstruction
  refine ⟨fun i s => exec_pc s i, fun s t x k hr h => ?_⟩
  rw [step_complete hr] at h
  cases h
  rfl

end Sys2Proof.Machine
end

section
/-! PROOFS. The frame of every instruction: registers but its destinations, components but those it writes, and the bytes it
does not store to are unchanged (10_state.md R22 to R33, 20_memory.md R51). -/

namespace Sys2Proof.Claims

open Sys2Proof.Machine

/-! ### What each write adds to the components changed so far -/

section
variable {cs : List Comp} {s t : State} (h : KeepsBut cs s t)
include h

/-- A write to `I` changes it and no further component (R25). -/
theorem KeepsBut.setI (v : Word) : KeepsBut (.I :: cs) s (t.setI v) :=
  h.cons fun d hd hkept => by
    cases d with
    | I => exact absurd rfl hd
    | _ => exact hkept

/-- A write to the framebuffer changes it and no further component (R30). -/
theorem KeepsBut.setFb (v : Screen) : KeepsBut (.fb :: cs) s (t.setFb v) :=
  h.cons fun d hd hkept => by
    cases d with
    | fb => exact absurd rfl hd
    | _ => exact hkept

/-- A write to pc changes it and no further component (R26). -/
theorem KeepsBut.setPc (v : Word) : KeepsBut (.pc :: cs) s (t.setPc v) :=
  h.cons fun d hd hkept => by
    cases d with
    | pc => exact absurd rfl hd
    | _ => exact hkept

/-- A pop changes SP and no further component: the entry stays (R27, D6). -/
theorem KeepsBut.pop : KeepsBut (.SP :: cs) s t.pop :=
  h.cons fun d hd hkept => by
    cases d with
    | SP => exact absurd rfl hd
    | _ => exact hkept

/-- A push changes the stack and SP and no further component (R27). -/
theorem KeepsBut.push (v : Addr) (hSP : t.SP.val < 16) : KeepsBut (.stack :: .SP :: cs) s (t.push v hSP) := by
  intro c hc
  have hc' := List.not_mem_of_not_mem_cons hc
  have hkept := h c (List.not_mem_of_not_mem_cons hc')
  cases c with
  | stack => exact absurd rfl (List.ne_of_not_mem_cons hc)
  | SP => exact absurd rfl (List.ne_of_not_mem_cons hc')
  | _ => exact hkept

/-- A random byte consumed changes the model's own two fields and no further component (R32). -/
theorem KeepsBut.consumeDraw : KeepsBut (.random :: cs) s t.consumeDraw :=
  h.cons fun d hd hkept => by
    cases d with
    | random => exact absurd rfl hd
    | _ => simpa [Keeps] using hkept

/-- Loading registers changes no further component (R167). -/
theorem KeepsBut.setVs (k : Nat) (vs : List Byte) : KeepsBut cs s (t.setVs k vs) := by
  induction vs generalizing t k with
  | nil => exact h
  | cons v vs ih => exact ih (h.setV (BitVec.ofNat 4 k) v) (k + 1)

/-- A component found as it was may be left out of the list. -/
theorem KeepsBut.restrict {c : Comp} {cs' : List Comp} (hc : Keeps c s t) (hsub : cs ⊆ c :: cs') : KeepsBut cs' s t := by
  intro d hd
  by_cases hdc : d = c
  · rw [hdc]; exact hc
  · exact h d fun hmem => hd (List.mem_of_ne_of_mem hdc (hsub hmem))

end

/-! ### The frame from its parts -/

/-- An instruction that stores no byte does not write memory (R51). -/
theorem memory_notMem_writesComps {i : Instr} (h : storedBytes i = 0) : Comp.memory ∉ writesComps i := by
  cases i with
  | ldB | storeRegs => cases h
  | _ => simp [writesComps]

section
variable {i : Instr} {s t : State}

/-- The frame of an instruction that stores no byte. -/
theorem Frame.of_no_store (hstore : storedBytes i = 0) (hcomps : KeepsBut (.pc :: writesComps i) s t)
    (hregs : ∀ r, writesReg i r = false → t.getV r = s.getV r) : Frame i s t := by
  have hkeeps (c) (hpc : c ≠ .pc) (hc : c ∉ writesComps i) : Keeps c s t :=
    hcomps c (List.not_mem_cons_of_ne_of_not_mem hpc hc)
  have hmem : Keeps .memory s t := hkeeps .memory nofun (memory_notMem_writesComps hstore)
  exact ⟨hregs, hkeeps, fun a _ => hmem a⟩

/-- The frame of an instruction that stores the bytes `vs` at `I`. -/
theorem Frame.of_store {vs : List Byte} (hcomps : writesComps i = [.memory]) (hlength : vs.length = storedBytes i) :
    Frame i s (s.writeBytes (indexBase s) vs).advance := by
  refine ⟨fun _ _ => rfl, fun c hpc hc => ?_, ?_⟩
  · have hkeeps := ((KeepsBut.refl s).writeBytes (indexBase s) vs).advance
    exact hkeeps c (List.not_mem_cons_of_ne_of_not_mem hpc (hcomps ▸ hc))
  · rw [← hlength]
    exact s.writeBytes_keepsBytesOutside (indexBase s) vs

end

end Sys2Proof.Claims

namespace Sys2Proof.Machine

open Sys2Proof.Claims

variable (s : State)

/-- A result and a flag leave every register but V[x] and VF (R132). -/
theorem State.setFlag_advance_keepsRegs (x : Reg) (v : Byte) (p : Bool) :
    KeepsRegsBut [x, VF] s ((s.setV x v).setFlag p).advance := by
  intro r hr
  obtain ⟨hx, hF⟩ : r ≠ x ∧ r ≠ VF := by simpa using hr
  rw [State.getV_advance, State.getV_setFlag, if_neg hF, s.getV_setV_other v hx]

/-- Loading `V[0]..V[x]` leaves the registers above x (R167). -/
theorem State.getV_setVs_above {x r : Reg} {vs : List Byte} (hlength : vs.length = x.toNat + 1) (hr : ¬r.toNat ≤ x.toNat) :
    (s.setVs 0 vs).getV r = s.getV r := by
  rw [s.getV_setVs 0 vs (by omega), dif_neg (by omega)]

/-- Every instruction that answers a next state has its frame. -/
theorem exec_frame (i : Instr) : NextSatisfies (Frame i s) (exec i s) := by
  have hkept := KeepsBut.refl s
  cases i with
  | cls => exact .next (.of_no_store rfl (hkept.setFb _).advance fun _ _ => rfl)
  | ret => exact .ret fun _ => .of_no_store rfl (hkept.pop.setPc _) fun _ _ => rfl
  | call => exact .call fun hSP => .of_no_store rfl ((hkept.push _ hSP).setPc _) fun _ _ => rfl
  | jp | seImm | sneImm | seReg | sneReg => exact .next (.of_no_store rfl (hkept.setPc _) fun _ _ => rfl)
  | jpV0 nnn =>
    exact .of_bound (exec_jpV0 s nnn) (exec_jpV0_out s nnn) (.of_no_store rfl (hkept.setPc _) fun _ _ => rfl)
  | ldImm | addImm | ldReg | orReg | andReg | xorReg | ldVxDT =>
    refine .next (.of_no_store rfl (hkept.setV _ _).advance fun r hr => ?_)
    exact s.getV_setV_other _ (by simpa [writesReg, writesFlag] using hr)
  | addReg | subReg | shr | subnReg | shl =>
    refine .next (.of_no_store rfl ((hkept.setV _ _).setV VF _).advance fun r hr => ?_)
    exact s.setFlag_advance_keepsRegs _ _ _ r (by simpa [writesReg, writesFlag, and_comm] using hr)
  | rnd x nn =>
    refine .next (.of_no_store rfl (hkept.consumeDraw.setV x _).advance fun r hr => ?_)
    rw [State.getV_advance, State.getV_setV_other _ _ (by simpa [writesReg, writesFlag] using hr), State.getV_consumeDraw]
  | ldI => exact .next (.of_no_store rfl (hkept.setI _).advance fun _ _ => rfl)
  | addI x =>
    exact .of_bound (exec_addI s x) (exec_addI_out s x) (.of_no_store rfl (hkept.setI _).advance fun _ _ => rfl)
  | ldF x => exact .of_bound (exec_ldF s x) (exec_ldF_out s x) (.of_no_store rfl (hkept.setI _).advance fun _ _ => rfl)
  | ldB | storeRegs => exact .storeAtIndex (.of_store rfl (by simp [storedBytes]))
  | loadRegs x =>
    refine .of_bound (exec_loadRegs s x) (exec_loadRegs_out s x) (.of_no_store rfl (hkept.setVs 0 _).advance fun r hr => ?_)
    exact s.getV_setVs_above (s.readBytes_length _ _) (by simpa [writesReg, writesFlag] using hr)
  | drw x y n =>
    refine .drw (.of_no_store rfl ((hkept.setFb _).setV VF _).advance fun r hr => ?_)
    exact s.getV_afterDraw_other x y n (by simpa [writesReg, writesFlag] using hr)
  | skp x => exact .of_bound (exec_skp s x) (exec_skp_out s x) (.of_no_store rfl (hkept.setPc _) fun _ _ => rfl)
  | sknp x => exact .of_bound (exec_sknp s x) (exec_sknp_out s x) (.of_no_store rfl (hkept.setPc _) fun _ _ => rfl)
  | ldVxK => exact .next (.of_no_store rfl ((hkept.setRun _).mono (List.subset_cons_self ..)) fun _ _ => rfl)
  | ldDTVx => exact .next (.of_no_store rfl (hkept.setDT _).advance fun _ _ => rfl)
  | ldSTVx => exact .next (.of_no_store rfl (hkept.setST _).advance fun _ _ => rfl)

/-- Settles O17, by the frame of every instruction. -/
theorem controlFlowFrame : Obligations.ControlFlowFrame := by
  unfold Obligations.ControlFlowFrame
  exact fun i s t _ h => exec_frame s i t h

/-- Settles O18, by the frame of every instruction. -/
theorem aluFrame : Obligations.AluFrame := by
  unfold Obligations.AluFrame
  exact fun i s t _ h => exec_frame s i t h

/-- Settles O19, by the frame of every instruction. -/
theorem indexMemoryFrame : Obligations.IndexMemoryFrame := by
  unfold Obligations.IndexMemoryFrame
  exact fun i s t _ h => exec_frame s i t h

/-- Settles O20, by the frame of every instruction. -/
theorem displayFrame : Obligations.DisplayFrame := by
  unfold Obligations.DisplayFrame
  exact fun i s t _ h => exec_frame s i t h

/-- Settles O21, by the frame of every instruction. -/
theorem keyTimerFrame : Obligations.KeyTimerFrame := by
  unfold Obligations.KeyTimerFrame
  exact fun i s t _ h => exec_frame s i t h

end Sys2Proof.Machine
end

section
/-! PROOFS. The flag instructions (42_alu.md R131, R132, R139 to R143): the flag is written last, so VF holds it for every
x, and V[x] holds the result where x is not F. -/

namespace Sys2Proof.Machine

open Sys2Proof.Claims

/-! ### A result and a flag -/

theorem bool01_zero_or_one (p : Bool) : bool01 p = 0 ∨ bool01 p = 1 := by cases p <;> decide

section
variable (s : State) (x : Reg) (v : Byte) (p : Bool)

theorem State.getV_flag_of_resultAndFlag : ((s.setV x v).setFlag p).advance.getV VF = bool01 p := by
  rw [State.getV_advance, State.getV_setFlag, if_pos rfl]

theorem State.flag_of_resultAndFlag_zero_or_one :
    ((s.setV x v).setFlag p).advance.getV VF = 0 ∨ ((s.setV x v).setFlag p).advance.getV VF = 1 := by
  rw [State.getV_flag_of_resultAndFlag]
  exact bool01_zero_or_one p

theorem State.getV_result_of_resultAndFlag (hx : x ≠ VF) : ((s.setV x v).setFlag p).advance.getV x = v := by
  rw [State.getV_advance, State.getV_setFlag, if_neg hx, State.getV_setV_same]

end

/-! ### The values of the flags -/

section
variable (p : Prop) [Decidable p]

theorem bool01_decide : bool01 (decide p) = if p then 1 else 0 := by
  simp [bool01]

theorem toNat_bool01_decide : (bool01 (decide p)).toNat = if p then 1 else 0 := by
  rw [bool01_decide]
  split <;> rfl

/-- A flag written as a condition is 1 where the condition holds and 0 elsewhere. -/
theorem State.getV_flag_decide (s : State) (x : Reg) (v : Byte) :
    ((s.setV x v).setFlag (decide p)).advance.getV VF = if p then 1 else 0 :=
  (s.getV_flag_of_resultAndFlag x v (decide p)).trans (bool01_decide p)

end

section
variable (a b : Byte)

/-- The carry is the ninth bit of the true sum (R131). -/
theorem toNat_bool01_carry : (bool01 (carry a b)).toNat = (a.toNat + b.toNat) / 256 := by
  rw [carry, toNat_bool01_decide]
  split <;> omega

theorem toNat_bool01_shiftedOutLow : (bool01 (shiftedOutLow a)).toNat = a.toNat % 2 := by
  rw [shiftedOutLow, BitVec.getLsbD, Nat.testBit_zero, toNat_bool01_decide]
  split <;> omega

theorem toNat_bool01_shiftedOutHigh : (bool01 (shiftedOutHigh a)).toNat = a.toNat / 128 := by
  rw [shiftedOutHigh, BitVec.getLsbD, Nat.testBit_eq_decide_div_mod_eq, toNat_bool01_decide]
  split <;> omega

/-- Subtraction modulo 256, without a negative difference (R130). -/
theorem toNat_sub_byte : (a - b).toNat = (a.toNat + 256 - b.toNat) % 256 := by bv_omega

end

/-- Every instruction that writes VF as a flag leaves 0 or 1 there (R23). -/
theorem exec_flag_zero_or_one {i : Instr} (hi : writesFlag i = true) (s : State) :
    NextSatisfies (fun t => t.getV VF = 0 ∨ t.getV VF = 1) (exec i s) := by
  cases i with
  | addReg | subReg | shr | subnReg | shl =>
    exact .next (s.flag_of_resultAndFlag_zero_or_one _ _ _)
  | drw x y n =>
    refine .drw ?_
    rw [State.getV_afterDraw_flag]
    exact bool01_zero_or_one _
  | _ => cases hi

/-! ### The statements -/

/-- Settles O22: VF holds the flag, a bool01, whose predicate the last three clauses write out. -/
theorem flagsAreZeroOrOne : Obligations.FlagsAreZeroOrOne := by
  unfold Obligations.FlagsAreZeroOrOne
  refine ⟨fun i s t hi => exec_flag_zero_or_one hi s t, fun x y s => ?add, fun x y s => ?sub, fun x y s => ?subn⟩
  case add | sub | subn => exact NextSatisfies.next (s.getV_flag_decide _ x _)

/-- Settles O33. -/
theorem addSetsCarry : Obligations.AddSetsCarry := by
  unfold Obligations.AddSetsCarry
  intro s x y
  refine ⟨encodeXY_mask .., _, exec_addReg s x y, State.advance_pc _, s.setFlag_advance_keepsRegs x _ _, fun hx => ?_, ?_⟩
  · rw [s.getV_result_of_resultAndFlag _ _ _ hx, BitVec.toNat_add]
  · rw [State.getV_flag_of_resultAndFlag, toNat_bool01_carry]

/-- Settles O34. -/
theorem subtractSetsNoBorrow : Obligations.SubtractSetsNoBorrow := by
  unfold Obligations.SubtractSetsNoBorrow
  intro s x y
  refine ⟨encodeXY_mask .., _, exec_subReg s x y, State.advance_pc _, s.setFlag_advance_keepsRegs x _ _, fun hx => ?_,
    s.getV_flag_decide _ x _⟩
  rw [s.getV_result_of_resultAndFlag _ _ _ hx, toNat_sub_byte]

/-- Settles O35. -/
theorem reverseSubtractSetsNoBorrow : Obligations.ReverseSubtractSetsNoBorrow := by
  unfold Obligations.ReverseSubtractSetsNoBorrow
  intro s x y
  refine ⟨_, exec_subnReg s x y, State.advance_pc _, s.setFlag_advance_keepsRegs x _ _, fun hx => ?_,
    s.getV_flag_decide _ x _⟩
  rw [s.getV_result_of_resultAndFlag _ _ _ hx, toNat_sub_byte]

/-- Settles O36: the answer is the same for every y field, since the meaning does not name it. -/
theorem shiftRightDropsBitZero : Obligations.ShiftRightDropsBitZero := by
  unfold Obligations.ShiftRightDropsBitZero
  intro s x y
  refine ⟨encodeXY_mask .., _, exec_shr s x y, State.advance_pc _, s.setFlag_advance_keepsRegs x _ _, fun hx => ?_, ?_,
    exec_shr s x⟩
  · rw [s.getV_result_of_resultAndFlag _ _ _ hx, BitVec.toNat_ushiftRight, Nat.shiftRight_one]
  · rw [State.getV_flag_of_resultAndFlag, toNat_bool01_shiftedOutLow]

/-- Settles O37: the answer is the same for every y field, since the meaning does not name it. -/
theorem shiftLeftDropsBitSeven : Obligations.ShiftLeftDropsBitSeven := by
  unfold Obligations.ShiftLeftDropsBitSeven
  intro s x y
  refine ⟨encodeXY_mask .., _, exec_shl s x y, State.advance_pc _, s.setFlag_advance_keepsRegs x _ _, fun hx => ?_, ?_,
    exec_shl s x⟩
  · rw [s.getV_result_of_resultAndFlag _ _ _ hx, BitVec.toNat_shiftLeft, Nat.shiftLeft_eq, Nat.pow_one, Nat.mul_comm]
  · rw [State.getV_flag_of_resultAndFlag, toNat_bool01_shiftedOutHigh]

/-- Settles O32: each of the three is one write to V[x], so VF is kept as any other register. -/
theorem logicLeavesTheFlag : Obligations.LogicLeavesTheFlag := by
  unfold Obligations.LogicLeavesTheFlag
  intro s x y
  refine ⟨⟨_, exec_orReg s x y, State.advance_pc _, s.setV_advance_keepsRegs x _, fun b => ?_⟩,
    ⟨_, exec_andReg s x y, State.advance_pc _, s.setV_advance_keepsRegs x _, fun b => ?_⟩,
    ⟨_, exec_xorReg s x y, State.advance_pc _, s.setV_advance_keepsRegs x _, fun b => ?_⟩⟩
  · rw [State.getV_advance, State.getV_setV_same, BitVec.getLsbD_or]
  · rw [State.getV_advance, State.getV_setV_same, BitVec.getLsbD_and]
  · rw [State.getV_advance, State.getV_setV_same, BitVec.getLsbD_xor]

end Sys2Proof.Machine
end

section
/-! PROOFS. Jumps, call and return (41_control_flow.md R110 to R112, R117). -/

namespace Sys2Proof.Machine

open Sys2Proof.Claims

/-- A 12-bit address as a word keeps its number (R73). -/
theorem toNat_addr_setWidth (nnn : Addr) : (nnn.setWidth 16).toNat = nnn.toNat := BitVec.toNat_setWidth_of_le (by decide)

/-- A natural number up to 0xFFF is stored as a word whole. -/
theorem toNat_word_ofNat {n : Nat} (h : n ≤ 0xFFF) : (BitVec.ofNat 16 n).toNat = n :=
  Nat.mod_eq_of_lt (Nat.lt_of_le_of_lt h (by decide))

/-- Settles O23. -/
theorem jumpSetsPc : Obligations.JumpSetsPc := by
  unfold Obligations.JumpSetsPc
  intro s nnn
  have hpc := toNat_addr_setWidth nnn
  refine ⟨encodeNNN_mask .., _, exec_jp s nnn, hpc, fun hr htop => ?_, s.setPc_frame _⟩
  subst htop
  exact step_unfetchable hr (show 0xFFF > 0xFFE by decide)

/-- Settles O29. -/
theorem jumpWithOffset : Obligations.JumpWithOffset := by
  unfold Obligations.JumpWithOffset
  exact fun s nnn => ⟨fun h => ⟨_, exec_jpV0 s nnn h, toNat_word_ofNat h⟩, exec_jpV0_out s nnn⟩

/-- Settles O25: an address up to 0xFFE is its own low 12 bits, so the entry is the whole pc. -/
theorem callPushesItsOwnAddress : Obligations.CallPushesItsOwnAddress := by
  unfold Obligations.CallPushesItsOwnAddress
  intro s nnn hSP hpc
  refine ⟨_, exec_call s nnn hSP, rfl, toNat_addr_setWidth nnn, fun k => ?_⟩
  have hpushed : (s.pc.setWidth 12).toNat = s.pc.toNat := by bv_omega
  rw [State.setPc_stack, State.push_stack, Vector.getElem_set]
  simp only [eq_comm (a := s.SP.val), apply_ite BitVec.toNat, hpushed]

/-- An entry plus 2, as a word (R110): no carry out of 16 bits. -/
theorem toNat_entry_add_two (v : Addr) : (v.setWidth 16 + 2).toNat = v.toNat + 2 := by bv_omega

/-- Settles O26: the entry popped is the one below SP, and a pop writes SP only. -/
theorem returnGoesPastThePoppedAddress : Obligations.ReturnGoesPastThePoppedAddress := by
  unfold Obligations.ReturnGoesPastThePoppedAddress
  intro s k hSP
  have htop : s.top (by omega) = s.stack[k.val] := by simp [State.top, hSP]
  refine ⟨_, exec_ret s (by omega), by simp [hSP], ?_, rfl⟩
  rw [State.setPc_pc, toNat_entry_add_two, htop]

/-! ### A call and at once a return -/

section
variable (s : State) (nnn : Addr) (hSP : s.SP.val < 16)

/-- The state 2NNN answers when the stack is not full. -/
def State.afterCall : State := (s.push (s.pc.setWidth 12) hSP).setPc (nnn.setWidth 16)

/-- The state a 00EE then answers: SP is back, and pc is past the call. -/
def State.afterCallReturn : State := (s.afterCall nnn hSP).pop.setPc ((s.pc.setWidth 12).setWidth 16 + 2)

theorem exec_ret_afterCall : exec .ret (s.afterCall nnn hSP) = .next (s.afterCallReturn nnn hSP) := by
  have htop : (s.afterCall nnn hSP).top (Nat.succ_pos _) = s.pc.setWidth 12 := s.top_push _ hSP
  rw [exec_ret _ (Nat.succ_pos _), htop]
  rfl

theorem State.afterCallReturn_frame : KeepsBut [.pc, .stack] s (s.afterCallReturn nnn hSP) := by
  have hwritten : KeepsBut [.pc, .SP, .pc, .stack, .SP] s (s.afterCallReturn nnn hSP) :=
    ((((KeepsBut.refl s).push _ hSP).setPc _).pop).setPc _
  exact hwritten.restrict (c := .SP) rfl (by decide)

end

/-- Settles O27: both steps fetch, since the call leaves memory and the sub-state, and the return pops what the call pushed. -/
theorem callThenReturnRoundTrip : Obligations.CallThenReturnRoundTrip := by
  unfold Obligations.CallThenReturnRoundTrip
  intro s nnn hfetch hSP hnnn hcall hret
  have htarget : (s.afterCall nnn hSP).pc.toNat = nnn.toNat := toNat_addr_setWidth nnn
  have hfetch' : CanFetch (s.afterCall nnn hSP) := ⟨hfetch.1, htarget ▸ hnnn⟩
  have hstep : step s = .next (s.afterCall nnn hSP) :=
    (stepRunsTheDecodedInstruction s _ hfetch hcall).trans (exec_call s nnn hSP)
  have hstep' : step (s.afterCall nnn hSP) = .next (s.afterCallReturn nnn hSP) :=
    (stepRunsTheDecodedInstruction _ .ret hfetch' (by rw [htarget]; exact hret)).trans (exec_ret_afterCall s nnn hSP)
  have hpc : (s.pc.setWidth 12).toNat = s.pc.toNat := by
    have := hfetch.2
    bv_omega
  exact ⟨_, _, hstep, hstep', (toNat_entry_add_two _).trans (by rw [hpc]), rfl, fun _ _ => rfl,
    s.afterCallReturn_frame nnn hSP⟩

end Sys2Proof.Machine
end

section
/-! PROOFS. The index register and memory at `I` (43_index_memory.md R163 to R167). -/

namespace Sys2Proof.Machine

open Sys2Proof.Claims

/-- Settles O40. -/
theorem addToIndex : Obligations.AddToIndex := by
  unfold Obligations.AddToIndex
  exact fun s x => ⟨fun h => ⟨_, exec_addI s x h, toNat_word_ofNat h, State.advance_pc _, s.setI_advance_keepsRegs _⟩,
    exec_addI_out s x⟩

/-- Settles O41: the last glyph's address is far below 0xFFF, so it is stored whole. -/
theorem glyphAddressOfDigit : Obligations.GlyphAddressOfDigit := by
  unfold Obligations.GlyphAddressOfDigit
  refine fun s x => ⟨fun h => ⟨_, exec_ldF s x h, toNat_word_ofNat ?_, State.advance_pc _⟩, exec_ldF_out s x⟩
  unfold glyphAddress fontBase
  omega

/-- Bytes that are the digits in order make up the number, and the tens and ones are below 10 (R165). -/
theorem bcdDigits_value {v : Byte} {d : Nat → Byte} (hd : ∀ j (h : j < (bcdDigits v).length), d j = (bcdDigits v)[j]) :
    100 * (d 0).toNat + 10 * (d 1).toNat + (d 2).toNat = v.toNat ∧ (d 1).toNat ≤ 9 ∧ (d 2).toNat ≤ 9 := by
  have hundreds : d 0 = BitVec.ofNat 8 (v.toNat / 100) := hd 0 (by simp)
  have tens : d 1 = BitVec.ofNat 8 (v.toNat / 10 % 10) := hd 1 (by simp)
  have ones : d 2 = BitVec.ofNat 8 (v.toNat % 10) := hd 2 (by simp)
  simp only [hundreds, tens, ones, BitVec.toNat_ofNat]
  omega

/-- Settles O42: the three bytes stored are the digits. -/
theorem bcdStoresThreeDigits : Obligations.BcdStoresThreeDigits := by
  unfold Obligations.BcdStoresThreeDigits
  intro s x
  refine ⟨encodeX_mask .., fun hI => ?_, fun hI => exec_fault_of_check (if_pos hI)⟩
  obtain ⟨hvalue, htens, hones⟩ := bcdDigits_value (s.readByte_writeBytes_add s.I.toNat (bcdDigits (s.getV x)))
  exact ⟨_, storeAtIndex_next s (bcdDigits (s.getV x)) (Nat.add_le_add_right hI 3), hvalue, htens, hones,
    s.writeBytes_keepsBytesOutside s.I.toNat (bcdDigits (s.getV x)), rfl, State.advance_pc _, fun _ _ => rfl⟩

/-- Entry `r` of `V[0]..V[x]` is V[r] (R166). -/
theorem State.getVs_getElem_toNat (s : State) (x r : Reg) (h : r.toNat < (s.getVs x).length) :
    (s.getVs x)[r.toNat] = s.getV r := by
  rw [State.getVs_getElem, BitVec.ofNat_toNat, BitVec.setWidth_eq]

/-- Settles O43: the bytes stored are the registers in order. -/
theorem registerDump : Obligations.RegisterDump := by
  unfold Obligations.RegisterDump
  refine fun s x => ⟨fun hI => ?_, fun hI => exec_fault_of_check (if_pos hI)⟩
  have hlength := s.getVs_length x
  have houtside := s.writeBytes_keepsBytesOutside s.I.toNat (s.getVs x)
  rw [hlength] at houtside
  refine ⟨_, storeAtIndex_next s (s.getVs x) (by omega), fun r hr => ?_, houtside, rfl, State.advance_pc _⟩
  have hlt : r.toNat < (s.getVs x).length := by omega
  exact (s.readByte_writeBytes_add s.I.toNat (s.getVs x) r.toNat hlt).trans (s.getVs_getElem_toNat x r hlt)

/-- Settles O44: the bytes loaded go to the registers in order, and those above x are not written. -/
theorem registerLoad : Obligations.RegisterLoad := by
  unfold Obligations.RegisterLoad
  refine fun s x => ⟨fun hI => ?_, exec_loadRegs_out s x⟩
  have hlength := s.readBytes_length s.I.toNat (x.toNat + 1)
  refine ⟨_, exec_loadRegs s x hI, fun r => ?_, by simp, by simp⟩
  rw [State.getV_advance]
  split
  next hr => rw [s.getV_setVs 0 _ (by omega), dif_pos (by omega), State.readBytes_getElem]; rfl
  next hr => exact s.getV_setVs_above hlength hr

end Sys2Proof.Machine
end

section
/-! PROOFS. The key instructions EX9E, EXA1 and FX0A (45_timers_keys.md R200, R201, R203), and the wait from end to end. -/

namespace Sys2Proof.Machine

open Sys2Proof.Claims

variable (s : State) (x : Reg) (k : Key)

/-! ### Skips -/

/-- The latch the key skips read, where V[x] is a key index (R200, R201). -/
theorem keyPressed_eq {s : State} {x : Reg} {k : Key} (h : (s.getV x).toNat = k.toNat) : keyPressed x s = s.getKey k := by
  have hkey : keyOperand (s.getV x) = k := by unfold keyOperand; bv_omega
  rw [keyPressed, hkey]

/-- Settles O48. -/
theorem keySkips : Obligations.KeySkips := by
  unfold Obligations.KeySkips
  refine fun s x => ⟨fun k hk => ?_, fun h => ⟨exec_skp_out s x h, exec_sknp_out s x h⟩⟩
  have hindex : (s.getV x).toNat ≤ 0xF := by omega
  refine ⟨⟨_, exec_skp s x hindex, ?_⟩, ⟨_, exec_sknp s x hindex, ?_⟩⟩
  · rw [keyPressed_eq hk, State.skipIf_pc]
  · rw [keyPressed_eq hk, State.skipIf_pc]
    cases s.getKey k <;> rfl

/-! ### The wait -/

/-- Settles O50. -/
theorem waitForKeyEntersTheSubState : Obligations.WaitForKeyEntersTheSubState := by
  unfold Obligations.WaitForKeyEntersTheSubState
  exact fun s x => ⟨_, exec_ldVxK s x, rfl, rfl, fun _ _ => rfl, (KeepsBut.refl s).setRun _⟩

/-- The completing step writes the key's index to V[x] (R92). -/
theorem State.completeWait_getV : ((s.completeWait x k).getV x).toNat = k.toNat := by
  have hV : (s.completeWait x k).getV x = k.setWidth 8 := s.getV_setV_same x (k.setWidth 8)
  rw [hV]
  exact BitVec.toNat_setWidth_of_le (by decide)

theorem State.completeWait_keepsRegs : KeepsRegsBut [x] s (s.completeWait x k) := s.setV_advance_keepsRegs x _

/-- Settles O11. -/
theorem latchedKeyCompletesTheWait : Obligations.LatchedKeyCompletesTheWait := by
  unfold Obligations.LatchedKeyCompletesTheWait
  exact fun s x k hr => ⟨_, step_complete hr, s.completeWait_getV x k, rfl, rfl, rfl, s.completeWait_keepsRegs x k,
    (((KeepsBut.refl s).setV x _).advance.setRun _).mono (by decide)⟩

/-- The state after an FX0A and the press of a released key. -/
def State.afterWaitPress : State := ((s.setRun (.awaitingKey x none)).setKey k true).setRun (.awaitingKey x (some k))

theorem pressKey_waiting {s : State} {k : Key} (hk : s.getKey k = false) :
    pressKey k (s.setRun (.awaitingKey x none)) = s.afterWaitPress x k :=
  pressKey_released (s := s.setRun (.awaitingKey x none)) hk

/-- Settles O51: the wait ends in the sub-state it began in, so of the components only pc and the latch of k have changed. -/
theorem keyPressEndsTheWait : Obligations.KeyPressEndsTheWait := by
  unfold Obligations.KeyPressEndsTheWait
  intro s x k hfetch hword hk
  have hwait : step s = .next (s.setRun (.awaitingKey x none)) :=
    (stepRunsTheDecodedInstruction s _ hfetch hword).trans (exec_ldVxK s x)
  have hcomplete : step (pressKey k (s.setRun (.awaitingKey x none))) = .next ((s.afterWaitPress x k).completeWait x k) := by
    rw [pressKey_waiting x hk]
    exact step_complete rfl
  have hpressed : (s.afterWaitPress x k).getKey k = true := (s.getKey_setKey k k true).trans (if_pos rfl)
  have hwritten : KeepsBut [.run, .pc, .run, .key, .run] s ((s.afterWaitPress x k).completeWait x k) :=
    (((((KeepsBut.refl s).setRun _).setKey k true).setRun _).setV x _).advance.setRun _
  exact ⟨_, _, hwait, step_idle rfl, hcomplete, State.completeWait_getV _ x k, rfl, rfl, hpressed,
    State.completeWait_keepsRegs (s.afterWaitPress x k) x k, hwritten.restrict (c := .run) hfetch.1.symm (by decide)⟩

end Sys2Proof.Machine
end
